-- ==== Sys2Proof/Word.lean ====
section
/-! DEFINITION. The message word (30_encoding.md R81): every message is one 64-bit word. -/

namespace Sys2Proof

/-- One message (R81, R98). -/
abbrev Word := BitVec 64

end Sys2Proof
end

