-- ==== Sys2Proof/Config.lean ====
section
/-! DEFINITION. The parameters of 00_scope.md R6 to R8, their constraints, the test configuration
TV-CFG, and the free values: constants without a body, about whose value nothing can be proved. -/

namespace Sys2Proof

/-- The parameter record (R5: constants of a run). `PIN_POLICY` has no field: the pin request port is a
free input (R186, log 13). -/
structure Params where
  /-- `TICK_RATE_HZ`, rate of the local time base. -/
  tickRateHz : Nat
  /-- `TIMER_MOD`, modulus of the measured timer count. -/
  timerMod : Nat
  /-- `CHECK_SAMPLES`, sample periods between two check points. -/
  checkSamples : Nat
  /-- `F_MAX`, largest supported frequency in Hz. -/
  fMax : Nat
  /-- `TABLE_SIZE`, number of entries of the fractional-correction table. -/
  tableSize : Nat
  /-- `FRAC_TABLE`, the entries in index order. -/
  fracTable : List (BitVec 32)
  /-- `FRAC_INIT`, the `fracIndex` that computeSettings gives. -/
  fracInit : Nat
  /-- `KP`, proportional gain numerator. -/
  kp : Int
  /-- `KI`, integral gain numerator. -/
  ki : Int
  /-- `GAIN_SHIFT`, binary point of both gains. -/
  gainShift : Nat
  /-- `MAX_STEP`, bound of the correction in table steps. -/
  maxStep : Nat
  /-- `I_MAX`, saturation bound of the integrator. -/
  iMax : Nat
  /-- `LOCK_THRESHOLD`. -/
  lockThreshold : Nat
  /-- `UNLOCK_THRESHOLD`. -/
  unlockThreshold : Nat
  /-- `MIN_DWELL`. -/
  minDwell : Nat
  /-- `REF_TIMEOUT_TICKS`. -/
  refTimeoutTicks : Nat
  /-- `JITTER_TICKS`, the bound of the flip jitter. -/
  jitterTicks : Nat
  /-- `MIN_LEAD_TICKS`, the smallest offset that is not in the past. -/
  minLeadTicks : Nat
  /-- `PIN_IDLE`, the idle level of the pin: true is level 1. -/
  pinIdle : Bool
  /-- `SRC_PRESENT`, bit `s` is 1 when source `s` is wired. -/
  srcPresent : BitVec 4
  deriving DecidableEq, Repr

/-- The constraints of R6, R7 and R8. They are premises of every rule (R321, U7; log 16). -/
structure Params.Valid (p : Params) : Prop where
  tickRateHz_pos : 1 ≤ p.tickRateHz
  timerMod_low : 2 ≤ p.timerMod
  timerMod_high : p.timerMod ≤ 2 ^ 32
  checkSamples_pos : 1 ≤ p.checkSamples
  fMax_pos : 1 ≤ p.fMax
  fMax_high : p.fMax ≤ 2 ^ 32 - 1
  tableSize_pos : 1 ≤ p.tableSize
  tableSize_high : p.tableSize ≤ 65536
  fracTable_length : p.fracTable.length = p.tableSize
  fracInit_lt : p.fracInit < p.tableSize
  gainShift_high : p.gainShift ≤ 31
  maxStep_pos : 1 ≤ p.maxStep
  lockThreshold_pos : 1 ≤ p.lockThreshold
  unlockThreshold_gt : p.lockThreshold < p.unlockThreshold
  minDwell_pos : 1 ≤ p.minDwell
  refTimeoutTicks_pos : 1 ≤ p.refTimeoutTicks
  internal_present : p.srcPresent.getLsbD 0 = true

/-- TV-CFG of 95_test_vectors.md section 1: the spec's test configuration, not a property of the
hardware (R9). It is the record in State.reset (log 2); every statement quantifies over records. -/
def Params.tvCfg : Params where
  tickRateHz := 100000000
  timerMod := 65536
  checkSamples := 48
  fMax := 4294967295
  tableSize := 16
  fracTable := [0, 1, 2, 3, 4, 5, 6, 7, 8, 9, 10, 11, 12, 13, 14, 15]
  fracInit := 8
  kp := 8
  ki := 1
  gainShift := 4
  maxStep := 4
  iMax := 2147483647
  lockThreshold := 4
  unlockThreshold := 16
  minDwell := 8
  refTimeoutTicks := 1000000
  jitterTicks := 2
  minLeadTicks := 0
  pinIdle := false
  srcPresent := 0b1111#4

namespace Config

/-- Which of several enabled internal steps an idle machine takes (R67, U13, U20 to U22; log 4). -/
opaque freeChoice : Nat → Nat

/-- How many turns a round gives the schedule and the free choice before the steps it owes fall due: any
finite number (R67, R70, R271; log 4). -/
opaque freePatience : Nat → Nat

/-- What RESET leaves in `prevCount`, before reduction modulo `TIMER_MOD` (R300, U11; log 9). -/
opaque freeCountValue : Nat → Nat

/-- What RESET leaves in `synthReg` (R300, U12; log 9). -/
opaque freeSynthWord : Nat → BitVec 32

/-- The table word at an index outside `0 .. TABLE_SIZE-1`, where the spec defines none and no run
reads (R61; log 15). -/
opaque freeTableWord : Nat → BitVec 32

end Config

end Sys2Proof
end

