-- ==== Sys2Proof/Syntax.lean ====
section
/-! DEFINITION. The names of the spec's enumerations and the instructions: one constructor per row of
spec/opcode_table.json. -/

namespace Sys2Proof

/-- ClockSource (10_state.md R23). -/
inductive ClockSource where
  | internal | spdif | adat | hostFeedback
  deriving DecidableEq, Repr

/-- LockState (10_state.md R30). The pattern 3 has no name: no rule produces it. -/
inductive LockState where
  | unlocked | acquiring | locked
  deriving DecidableEq, Repr

/-- The kind of a reference event (30_encoding.md R89). -/
inductive EventKind where
  | edge | rateReport
  deriving DecidableEq, Repr

/-- The rows of the opcode table: the thirteen input messages (R85), the two output messages
(R92, R93) and the six internal steps and events that have no encoding (R94). -/
inductive Instr where
  | selsrc (src : ClockSource)
  | setrate (freq : BitVec 32)
  | getstatus
  | clrflags (mask : BitVec 8)
  | synget (freq : BitVec 32)
  | refev (src : ClockSource) (kind : EventKind) (count : BitVec 32)
  | los (src : ClockSource)
  | rateirq (freq : BitVec 32)
  | audmsg (payload : BitVec 32)
  | pininit
  | pintgl
  | pintglt (off : BitVec 32)
  | pinfault
  | status (src : ClockSource) (lock : BitVec 2) (rateValid : Bool) (flags : BitVec 8)
      (rate : BitVec 32)
  | settings (fracIndex : BitVec 16) (firstUpdate unsup : Bool) (adder : BitVec 32)
  | timeout
  | note
  | paccept
  | pflip
  | tick
  | reset
  deriving DecidableEq, Repr

/-- The mnemonics of the opcode table. -/
inductive Mnemonic where
  | selsrc | setrate | getstatus | clrflags | synget | refev | los | rateirq | audmsg
  | pininit | pintgl | pintglt | pinfault | status | settings
  | timeout | note | paccept | pflip | tick | reset
  deriving DecidableEq, Repr

/-- The row of an instruction. -/
def Instr.mnemonic : Instr → Mnemonic
  | .selsrc _ => .selsrc
  | .setrate _ => .setrate
  | .getstatus => .getstatus
  | .clrflags _ => .clrflags
  | .synget _ => .synget
  | .refev _ _ _ => .refev
  | .los _ => .los
  | .rateirq _ => .rateirq
  | .audmsg _ => .audmsg
  | .pininit => .pininit
  | .pintgl => .pintgl
  | .pintglt _ => .pintglt
  | .pinfault => .pinfault
  | .status _ _ _ _ _ => .status
  | .settings _ _ _ _ => .settings
  | .timeout => .timeout
  | .note => .note
  | .paccept => .paccept
  | .pflip => .pflip
  | .tick => .tick
  | .reset => .reset

/-- The rows of the thirteen input messages (R85). -/
def Mnemonic.messages : List Mnemonic :=
  [.selsrc, .setrate, .getstatus, .clrflags, .synget, .refev, .los, .rateirq, .audmsg,
   .pininit, .pintgl, .pintglt, .pinfault]

/-- An input message (R85). -/
def Instr.isMessage (i : Instr) : Bool := Mnemonic.messages.contains i.mnemonic

/-- An output message (R92, R93). -/
def Instr.isAnswer (i : Instr) : Bool := [Mnemonic.status, .settings].contains i.mnemonic

end Sys2Proof
end

