-- ==== Sys2Proof/Machine/Operands.lean ====
section
/-! DEFINITION. The codes of the enumerations and the reading of operand fields
(30_encoding.md R86 to R90, 10_state.md R23, R30). -/

namespace Sys2Proof.Machine

/-- Internal 0, SPDIF 1, ADAT 2, HostFeedback 3 (R23, R89). -/
def sourceCode : ClockSource → BitVec 2
  | .internal => 0#2
  | .spdif => 1#2
  | .adat => 2#2
  | .hostFeedback => 3#2

/-- The source of a code; all four codes are legal (R89). -/
def sourceOfCode (c : BitVec 2) : ClockSource :=
  if c = 0#2 then .internal else if c = 1#2 then .spdif else if c = 2#2 then .adat else .hostFeedback

/-- UNLOCKED 0, ACQUIRING 1, LOCKED 2 (R30, R92). -/
def lockCode : LockState → BitVec 2
  | .unlocked => 0#2
  | .acquiring => 1#2
  | .locked => 2#2

/-- Edge 0, rate report 1 (R89). -/
def kindCode : EventKind → BitVec 1
  | .edge => 0#1
  | .rateReport => 1#1

/-- The kind of a code (R89). -/
def kindOfCode (c : BitVec 1) : EventKind := if c = 0#1 then .edge else .rateReport

/-- `FREQ`, unsigned Hz (R86). -/
def freqOf (freq : BitVec 32) : Nat := freq.toNat

/-- `OFF`, signed ticks (R87). -/
def offsetOf (off : BitVec 32) : Int := off.toInt

/-- `COUNT`, unsigned (R88). -/
def countOf (count : BitVec 32) : Nat := count.toNat

/-- `SRC_PRESENT[s]` (00_scope.md R8). -/
def sourcePresent (p : Params) (src : ClockSource) : Bool := p.srcPresent.getLsbD (sourceCode src).toNat

end Sys2Proof.Machine
end

