-- ==== Sys2Proof/WellFormed.lean ====
section
/-! DEFINITION. What the encoding demands of an instruction's operands beyond their widths. -/

namespace Sys2Proof

/-- The operand conditions. REFEV: the count is one the timer can produce (R85's extra condition, R88).
STATUS: the lock field is never 3 (R92, U16). SETTINGS: with `UNSUP = 1` every other field is 0 (R93). -/
def wellFormed (timerMod : Nat) : Instr → Bool
  | .refev _ _ count => decide (count.toNat < timerMod)
  | .status _ lock _ _ _ => decide (lock ≠ 3#2)
  | .settings fracIndex firstUpdate unsup adder =>
      !unsup || (fracIndex == 0#16 && !firstUpdate && adder == 0#32)
  | .selsrc _ | .setrate _ | .getstatus | .clrflags _ | .synget _ | .los _ | .rateirq _ | .audmsg _
  | .pininit | .pintgl | .pintglt _ | .pinfault | .timeout | .note | .paccept | .pflip | .tick
  | .reset => true

end Sys2Proof
end

