-- ==== Sys2Proof/Decode.lean ====
section
/-! DEFINITION. The message encoding of 30_encoding.md: fields, formats, opcode map, a total decoder
that rejects by name, and the encoder. -/

namespace Sys2Proof

open Sys2Proof.Machine

/-- `OPC = W[63:56]` (R81). -/
def opcField (w : Word) : BitVec 8 := w.extractLsb' 56 8

/-- `AUX = W[55:32]` (R81). -/
def auxField (w : Word) : BitVec 24 := w.extractLsb' 32 24

/-- `OPR = W[31:0]` (R81). -/
def oprField (w : Word) : BitVec 32 := w.extractLsb' 0 32

/-- `OPC ++ AUX ++ OPR` (R81). -/
def mkWord (opc : BitVec 8) (aux : BitVec 24) (opr : BitVec 32) : Word := opc ++ aux ++ opr

/-- The port of a word, `W[63:60]` (R84). -/
def portField (w : Word) : BitVec 4 := w.extractLsb' 60 4

/-- The operations that have an opcode: R85's thirteen, and the two answers (R92, R93). -/
inductive Opcode where
  | selsrc | setrate | getstatus | clrflags | synget | refev | los | rateirq | audmsg
  | pininit | pintgl | pintglt | pinfault | status | settings
  deriving DecidableEq, Repr

/-- The opcode byte (R85, R92, R93). -/
def Opcode.code : Opcode → BitVec 8
  | .selsrc => 0x10#8
  | .setrate => 0x11#8
  | .getstatus => 0x12#8
  | .clrflags => 0x13#8
  | .synget => 0x14#8
  | .refev => 0x20#8
  | .los => 0x21#8
  | .rateirq => 0x30#8
  | .audmsg => 0x40#8
  | .pininit => 0x60#8
  | .pintgl => 0x61#8
  | .pintglt => 0x62#8
  | .pinfault => 0x70#8
  | .status => 0x92#8
  | .settings => 0x94#8

/-- Every opcode, in the table's order. -/
def Opcode.all : List Opcode :=
  [.selsrc, .setrate, .getstatus, .clrflags, .synget, .refev, .los, .rateirq, .audmsg,
   .pininit, .pintgl, .pintglt, .pinfault, .status, .settings]

/-- The operation of an opcode byte; every other byte is unassigned (R85). -/
def opcodeOf (b : BitVec 8) : Option Opcode := Opcode.all.find? (fun o => o.code == b)

/-- The formats of R82, and the layouts of the two answers. -/
inductive Format where
  | n | s | f | e | o | k | a | status | settings
  deriving DecidableEq, Repr

/-- The format of an operation (R82, R85). -/
def Opcode.format : Opcode → Format
  | .getstatus | .pininit | .pintgl | .pinfault => .n
  | .selsrc | .los => .s
  | .setrate | .synget | .rateirq => .f
  | .refev => .e
  | .pintglt => .o
  | .clrflags => .k
  | .audmsg => .a
  | .status => .status
  | .settings => .settings

/-- Every bit the format does not name is zero (R82, R95; for the answers R92, R93). -/
def reservedZero (fmt : Format) (aux : BitVec 24) (opr : BitVec 32) : Bool :=
  match fmt with
  | .n => aux == 0#24 && opr == 0#32
  | .s => aux.extractLsb' 2 22 == 0#22 && opr == 0#32
  | .f => aux == 0#24
  | .e => aux.extractLsb' 3 21 == 0#21
  | .o => aux == 0#24
  | .k => aux == 0#24 && opr.extractLsb' 8 24 == 0#24
  | .a => aux == 0#24
  | .status => aux.extractLsb' 5 3 == 0#3 && aux.extractLsb' 16 8 == 0#8
  | .settings => aux.extractLsb' 18 6 == 0#6

/-- `SRC = AUX[1:0]` (R82, R89). -/
def srcField (aux : BitVec 24) : ClockSource := sourceOfCode (aux.extractLsb' 0 2)

/-- `KIND = AUX[2]` (R82, R89). -/
def kindField (aux : BitVec 24) : EventKind := kindOfCode (aux.extractLsb' 2 1)

/-- Why a word is no message (R96). -/
inductive DecodeError where
  /-- No row has this opcode byte. -/
  | unassignedOpcode
  /-- A bit the format does not name is 1. -/
  | reservedBits
  /-- A REFEV whose count the timer cannot produce. -/
  | countOutOfRange
  deriving DecidableEq, Repr

/-- The operands of a word whose opcode and reserved bits are right (R86 to R90, R92, R93). -/
def assemble (timerMod : Nat) (op : Opcode) (aux : BitVec 24) (opr : BitVec 32) :
    Except DecodeError Instr :=
  match op with
  | .selsrc => .ok (.selsrc (srcField aux))
  | .setrate => .ok (.setrate opr)
  | .getstatus => .ok .getstatus
  | .clrflags => .ok (.clrflags (opr.extractLsb' 0 8))
  | .synget => .ok (.synget opr)
  | .refev =>
      if opr.toNat < timerMod then .ok (.refev (srcField aux) (kindField aux) opr)
      else .error .countOutOfRange
  | .los => .ok (.los (srcField aux))
  | .rateirq => .ok (.rateirq opr)
  | .audmsg => .ok (.audmsg opr)
  | .pininit => .ok .pininit
  | .pintgl => .ok .pintgl
  | .pintglt => .ok (.pintglt opr)
  | .pinfault => .ok .pinfault
  | .status =>
      .ok (.status (srcField aux) (aux.extractLsb' 2 2) (aux.getLsbD 4) (aux.extractLsb' 8 8) opr)
  | .settings =>
      .ok (.settings (aux.extractLsb' 0 16) (aux.getLsbD 16) (aux.getLsbD 17) opr)

/-- The decoding procedure, total on all words (R102). A word of the wrong direction decodes to the
answer whose layout it has; executing it is handling an illegal word (R96, log 11). -/
def decode (timerMod : Nat) (w : Word) : Except DecodeError Instr :=
  match opcodeOf (opcField w) with
  | none => .error .unassignedOpcode
  | some op =>
      if reservedZero op.format (auxField w) (oprField w) then
        assemble timerMod op (auxField w) (oprField w)
      else .error .reservedBits

/-- `AUX` of format S (R82). -/
def auxOfSource (src : ClockSource) : BitVec 24 := 0#22 ++ sourceCode src

/-- `AUX` of format E (R82). -/
def auxOfEvent (src : ClockSource) (kind : EventKind) : BitVec 24 :=
  0#21 ++ kindCode kind ++ sourceCode src

/-- `OPR` of format K (R82). -/
def oprOfMask (mask : BitVec 8) : BitVec 32 := 0#24 ++ mask

/-- `AUX` of the STATUS word (R92). -/
def auxOfStatus (src : ClockSource) (lock : BitVec 2) (rateValid : Bool) (flags : BitVec 8) : BitVec 24 :=
  0#8 ++ flags ++ 0#3 ++ BitVec.ofBool rateValid ++ lock ++ sourceCode src

/-- `AUX` of the SETTINGS word (R93). -/
def auxOfSettings (fracIndex : BitVec 16) (firstUpdate unsup : Bool) : BitVec 24 :=
  0#6 ++ BitVec.ofBool unsup ++ BitVec.ofBool firstUpdate ++ fracIndex

/-- The STATUS word (R92). -/
def statusWord (src : ClockSource) (lock : BitVec 2) (rateValid : Bool) (flags : BitVec 8)
    (rate : BitVec 32) : Word :=
  mkWord Opcode.status.code (auxOfStatus src lock rateValid flags) rate

/-- The SETTINGS word (R93). -/
def settingsWord (fracIndex : BitVec 16) (firstUpdate unsup : Bool) (adder : BitVec 32) : Word :=
  mkWord Opcode.settings.code (auxOfSettings fracIndex firstUpdate unsup) adder

/-- The word of an instruction (R82, R85, R92, R93, R99); the internal steps have none (R94). -/
def encode : Instr → Option Word
  | .selsrc src => some (mkWord Opcode.selsrc.code (auxOfSource src) 0#32)
  | .setrate freq => some (mkWord Opcode.setrate.code 0#24 freq)
  | .getstatus => some (mkWord Opcode.getstatus.code 0#24 0#32)
  | .clrflags mask => some (mkWord Opcode.clrflags.code 0#24 (oprOfMask mask))
  | .synget freq => some (mkWord Opcode.synget.code 0#24 freq)
  | .refev src kind count => some (mkWord Opcode.refev.code (auxOfEvent src kind) count)
  | .los src => some (mkWord Opcode.los.code (auxOfSource src) 0#32)
  | .rateirq freq => some (mkWord Opcode.rateirq.code 0#24 freq)
  | .audmsg payload => some (mkWord Opcode.audmsg.code 0#24 payload)
  | .pininit => some (mkWord Opcode.pininit.code 0#24 0#32)
  | .pintgl => some (mkWord Opcode.pintgl.code 0#24 0#32)
  | .pintglt off => some (mkWord Opcode.pintglt.code 0#24 off)
  | .pinfault => some (mkWord Opcode.pinfault.code 0#24 0#32)
  | .status src lock rateValid flags rate => some (statusWord src lock rateValid flags rate)
  | .settings fracIndex firstUpdate unsup adder =>
      some (settingsWord fracIndex firstUpdate unsup adder)
  | .timeout | .note | .paccept | .pflip | .tick | .reset => none

/-- One row of R85's map, as the rule prints it. -/
structure MapRow where
  opcode : Opcode
  pattern : Word
  mask : Word
  deriving DecidableEq, Repr

/-- R85's opcode map: `match` and `mask`, written out from the rule. -/
def opcodeMap : List MapRow :=
  [⟨.selsrc, 0x1000000000000000#64, 0xFFFFFFFCFFFFFFFF#64⟩,
   ⟨.setrate, 0x1100000000000000#64, 0xFFFFFFFF00000000#64⟩,
   ⟨.getstatus, 0x1200000000000000#64, 0xFFFFFFFFFFFFFFFF#64⟩,
   ⟨.clrflags, 0x1300000000000000#64, 0xFFFFFFFFFFFFFF00#64⟩,
   ⟨.synget, 0x1400000000000000#64, 0xFFFFFFFF00000000#64⟩,
   ⟨.refev, 0x2000000000000000#64, 0xFFFFFFF800000000#64⟩,
   ⟨.los, 0x2100000000000000#64, 0xFFFFFFFCFFFFFFFF#64⟩,
   ⟨.rateirq, 0x3000000000000000#64, 0xFFFFFFFF00000000#64⟩,
   ⟨.audmsg, 0x4000000000000000#64, 0xFFFFFFFF00000000#64⟩,
   ⟨.pininit, 0x6000000000000000#64, 0xFFFFFFFFFFFFFFFF#64⟩,
   ⟨.pintgl, 0x6100000000000000#64, 0xFFFFFFFFFFFFFFFF#64⟩,
   ⟨.pintglt, 0x6200000000000000#64, 0xFFFFFFFF00000000#64⟩,
   ⟨.pinfault, 0x7000000000000000#64, 0xFFFFFFFFFFFFFFFF#64⟩]

/-- `(W AND mask) = match` (R85). -/
def MapRow.matches (r : MapRow) (w : Word) : Bool := (w &&& r.mask) == r.pattern

/-- The operation of an instruction that has an encoding. -/
def opcodeOfInstr : Instr → Option Opcode
  | .selsrc _ => some .selsrc
  | .setrate _ => some .setrate
  | .getstatus => some .getstatus
  | .clrflags _ => some .clrflags
  | .synget _ => some .synget
  | .refev _ _ _ => some .refev
  | .los _ => some .los
  | .rateirq _ => some .rateirq
  | .audmsg _ => some .audmsg
  | .pininit => some .pininit
  | .pintgl => some .pintgl
  | .pintglt _ => some .pintglt
  | .pinfault => some .pinfault
  | .status _ _ _ _ _ => some .status
  | .settings _ _ _ _ => some .settings
  | .timeout | .note | .paccept | .pflip | .tick | .reset => none

/-- The 64-bit word of a table row's bits: every bit above `nbits` is zero. -/
def tableWord (nbits w : Nat) : Word := BitVec.ofNat 64 (w % 2 ^ nbits)

/-- What the decoder reads from a table row's bits, with the `TIMER_MOD` of State.reset (log 20). -/
def decodeTableWord (nbits w : Nat) : Option Instr :=
  match decode Params.tvCfg.timerMod (tableWord nbits w) with
  | .ok i => some i
  | .error _ => none

end Sys2Proof
end

