-- ==== Sys2Proof/Machine/Flags.lean ====
section
/-! DEFINITION. The sticky condition register `flags` (10_state.md R33, 60_exceptions.md R261). -/

namespace Sys2Proof.Machine

/-- The eight conditions (R261). -/
inductive Condition where
  | unsupportedFreq | refTimeout | missedDeadline | timerStall | hardFail | los | badCmd | fallback
  deriving DecidableEq, Repr

/-- The code of a condition is the number of its bit (R260, R261). -/
def Condition.code : Condition → Nat
  | .unsupportedFreq => 0
  | .refTimeout => 1
  | .missedDeadline => 2
  | .timerStall => 3
  | .hardFail => 4
  | .los => 5
  | .badCmd => 6
  | .fallback => 7

/-- The mask with the condition's bit alone. -/
def Condition.bit (c : Condition) : BitVec 8 := 1#8 <<< c.code

/-- Set the condition's bit (R14, R260). -/
def setFlag (flags : BitVec 8) (c : Condition) : BitVec 8 := flags ||| c.bit

/-- Read the condition's bit. -/
def flagSet (flags : BitVec 8) (c : Condition) : Bool := flags.getLsbD c.code

/-- `flags AND NOT (MASK AND 0xEF)`: bit 4 cannot be cleared (R240). -/
def clearFlags (flags mask : BitVec 8) : BitVec 8 := flags &&& ~~~(mask &&& 0xEF#8)

end Sys2Proof.Machine
end

