-- ==== Sys2Proof/Machine/State.lean ====
section
/-! DEFINITION. The machine's state (10_state.md R21), the reasons a step can stop, and the state after
reset. State is plain data. -/

namespace Sys2Proof.Machine

/-- The level of the output pin (R36). `undef` is a value nothing may be concluded from. -/
inductive PinLevel where
  | undef | low | high
  deriving DecidableEq, Repr

/-- A PinToggleRequest (R37): the offset of a timed one is 32 bits, read as signed. -/
inductive PinRequest where
  | init
  | immediate
  | timed (off : BitVec 32)
  deriving DecidableEq, Repr

/-- The internal steps and the reset event (30_encoding.md R94). -/
inductive InternalStep where
  | timeout | note | paccept | pflip | tick | reset
  deriving DecidableEq, Repr

/-- What is taken next: a word the environment delivers (on the port its upper four bits name), or an
internal step or reset (R100, R220; log 3). -/
inductive Event where
  | word (w : Word)
  | internal (k : InternalStep)
  deriving DecidableEq, Repr

/-- The block has no fault: no condition stops it (R260, R275, 93_implementation_defined.md; log 19). -/
inductive Fault where
  deriving DecidableEq, Repr

/-- Why the model takes no step. -/
inductive Refusal where
  /-- Raised by an arm of exec without a meaning. Safe: nothing is claimed of it. -/
  | notModelled (mnemonic : String)
  /-- Raised by TIMEOUT, NOTE, PACCEPT, PFLIP and TICK while the enabling condition is false: the spec
  has no such step in that state (R100, R152, R188, R192, R196, R244; log 12). Safe. -/
  | notEnabled (k : InternalStep)
  /-- Raised by an idle step when no internal step is enabled: `rem < -JITTER_TICKS`, which no run
  reaches (R43 I-i; log 21). Safe. -/
  | nothingEnabled
  deriving DecidableEq, Repr

/-- The elements of R21 under their own names, and the model's own fields after them. -/
structure State where
  /-- The parameters (R6 to R8), constant in every step (R5; log 1). -/
  cfg : Params
  /-- R23. -/
  activeSource : ClockSource
  /-- R24, Hz. -/
  currentRate : BitVec 32
  /-- R24. -/
  rateValid : Bool
  /-- R25. -/
  adder : Nat
  /-- R26. -/
  fracIndex : Nat
  /-- R27. -/
  firstUpdate : Bool
  /-- R28. -/
  prevCount : Nat
  /-- R28. -/
  prevValid : Bool
  /-- R29. -/
  integ : Int
  /-- R30. -/
  lock : LockState
  /-- R31. -/
  dwell : Nat
  /-- R32. -/
  wdog : Nat
  /-- R33. -/
  flags : BitVec 8
  /-- R34. -/
  synthReg : BitVec 32
  /-- R34. -/
  synthValid : Bool
  /-- R36. -/
  pin : PinLevel
  /-- R37. -/
  mailbox : Option PinRequest
  /-- R38. -/
  inflight : Option Int
  /-- R39. -/
  failed : Bool
  /-- R40. -/
  noteMissed : Bool
  /-- R40. -/
  noteHardFail : Bool
  /-- The model's own: what is taken next, in order (log 3). -/
  schedule : List Event
  /-- The model's own: the internal steps that were enabled when the round opened and are still to be
  taken in it (R67, R271; log 4). -/
  owed : List InternalStep
  /-- The model's own: how many turns are left before an owed step falls due (log 4). -/
  patience : Nat
  /-- The model's own: the words answered so far, oldest first (R14; log 5). -/
  outbox : List Word
  /-- The model's own: how many free values have been drawn (log 10). -/
  freeCount : Nat
  /-- The ghost count of TICK steps (R42; log 6). -/
  now : Nat
  deriving DecidableEq, Repr

/-- The state right after reset under the parameters `p`: the reset column of R21. The spec leaves
`prevCount` and `synthReg` unspecified; the zeros are the model's (log 7, log 8). -/
def State.resetWith (p : Params) : State where
  cfg := p
  activeSource := .internal
  currentRate := 0#32
  rateValid := false
  adder := 0
  fracIndex := p.fracInit
  firstUpdate := true
  prevCount := 0
  prevValid := false
  integ := 0
  lock := .unlocked
  dwell := 0
  wdog := 0
  flags := 0x00#8
  synthReg := 0#32
  synthValid := false
  pin := .undef
  mailbox := none
  inflight := none
  failed := false
  noteMissed := false
  noteHardFail := false
  schedule := []
  owed := []
  patience := 0
  outbox := []
  freeCount := 0
  now := 0

/-- The machine right after reset, with the spec's test configuration as its parameters (log 2). -/
def State.reset : State := State.resetWith Params.tvCfg

end Sys2Proof.Machine
end

