-- ==== Sys2Proof/Machine/Ops.lean ====
section
/-! DEFINITION. The operations that steps of every family share: raising a condition (the block's whole
exception mechanism: nothing is saved and nothing returns, 60_exceptions.md R274, R275), answering, the
handling of illegal words, and the refusal of an internal step that is not enabled. -/

namespace Sys2Proof.Machine

/-- `raise <Condition>` (R14): set its sticky flag and go on. -/
def raise (c : Condition) (s : State) : State := { s with flags := setFlag s.flags c }

/-- `respond(w)` (R14): put a word on the control-plane outbound channel. -/
def respond (w : Word) (s : State) : State := { s with outbox := s.outbox ++ [w] }

/-- The word went to the pin-driving domain: port 6 or 7 (R84, R96). -/
def pinPort (w : Word) : Bool := portField w == 6#4 || portField w == 7#4

/-- An illegal word (R96): dropped on ports 6 and 7, BAD_CMD and nothing else on every other port. -/
def illegalWord (w : Word) (s : State) : State := if pinPort w then s else raise .badCmd s

/-- An internal step happens only while its enabling condition holds (R15, R100; log 12). -/
def whenEnabled (enabled : Bool) (k : InternalStep) (t : State) : Host.Outcome State Fault Refusal :=
  if enabled then .next t else .refused (.notEnabled k)

end Sys2Proof.Machine
end

