-- ==== Sys2Proof/Machine/Answers.lean ====
section
/-! DEFINITION. The two output messages taken as input. STATUS and SETTINGS are words the core sends
(GETSTATUS and SYNGET build them with `statusWord` and `settingsWord`); one that arrives is a word of the
wrong direction on a port of the control-loop domain, so it is illegal: BAD_CMD and nothing else (30_encoding.md
R83, R96; 93_implementation_defined.md U33; log 11). -/

namespace Sys2Proof.Machine

/-- A STATUS word as input (R92, R96). -/
def execStatus (src : ClockSource) (lock : BitVec 2) (rateValid : Bool) (flags : BitVec 8)
    (rate : BitVec 32) (s : State) : Host.Outcome State Fault Refusal :=
  .next (illegalWord (statusWord src lock rateValid flags rate) s)

/-- A SETTINGS word as input (R93, R96). -/
def execSettings (fracIndex : BitVec 16) (firstUpdate unsup : Bool) (adder : BitVec 32) (s : State) :
    Host.Outcome State Fault Refusal :=
  .next (illegalWord (settingsWord fracIndex firstUpdate unsup adder) s)

end Sys2Proof.Machine
end

