-- ==== Sys2Proof/Machine/Arith.lean ====
section
/-! DEFINITION. The arithmetic primitives of 00_scope.md R11 and R12, on mathematical integers. -/

namespace Sys2Proof.Machine

/-- `wsub(a, b) = (a - b) mod TIMER_MOD` (R12). -/
def wsub (timerMod a b : Nat) : Nat := (((a : Int) - (b : Int)) % (timerMod : Int)).toNat

/-- `sres(r)`, the centred signed residue (R12). -/
def sres (timerMod r : Nat) : Int :=
  if 2 * r < timerMod then (r : Int) else (r : Int) - (timerMod : Int)

/-- `clamp(x, lo, hi)` (R11). -/
def clamp (x lo hi : Int) : Int := if x < lo then lo else if hi < x then hi else x

/-- `floor_shift(x, n) = x div 2^n`, rounding toward minus infinity (R11). -/
def floorShift (x : Int) (n : Nat) : Int := x / ((2 ^ n : Nat) : Int)

end Sys2Proof.Machine
end

