-- ==== Sys2Proof/Machine/Synth.lean ====
section
/-! DEFINITION. frequency_synthesizer_state_machine (40_synth_model.md): supported frequencies,
computeSettings, enable, the update stage, SYNGET. -/

namespace Sys2Proof.Machine

/-- A supported target frequency (R110). -/
abbrev supported (p : Params) (f : Nat) : Prop :=
  1 ≤ f ∧ f ≤ p.fMax ∧ (f % 48000 = 0 ∨ f % 44100 = 0)

/-- The rate family (R111). Nothing depends on it. -/
inductive RateFamily where
  | f48 | f441
  deriving DecidableEq, Repr

/-- The family of a supported frequency (R111). -/
def rateFamily (f : Nat) : RateFamily := if f % 48000 = 0 then .f48 else .f441

/-- SynthesizerSettings (10_state.md R25 to R27). -/
structure Settings where
  adder : Nat
  fracIndex : Nat
  firstUpdate : Bool
  deriving DecidableEq, Repr

/-- The settings of a frequency: the formula of R112, without its test. -/
def settingsFor (p : Params) (f : Nat) : Settings where
  adder := ((2 * p.tickRateHz * p.checkSamples + f) / (2 * f)) % p.timerMod
  fracIndex := p.fracInit
  firstUpdate := true

/-- `computeSettings(f)` (R112): `none` is the failure UnsupportedFrequency. -/
def computeSettings (p : Params) (f : Nat) : Option Settings :=
  if supported p f then some (settingsFor p f) else none

/-- `FRAC_TABLE[i]` (R61). Outside the table a free value (log 15). -/
def fracWord (p : Params) (i : Nat) : BitVec 32 := (p.fracTable[i]?).getD (Config.freeTableWord i)

/-- `enable(s)` (R116). -/
def enable (st : Settings) (s : State) : State :=
  { s with
    adder := st.adder
    fracIndex := st.fracIndex
    firstUpdate := true
    synthReg := fracWord s.cfg st.fracIndex
    synthValid := true }

/-- The table step of the update stage: the seed is not limited, the steady state moves one step
(R118). -/
def updateStep (firstUpdate : Bool) (c : Int) : Int := if firstUpdate then c else clamp c (-1) 1

/-- `fracIndex` after a table step, saturating at the ends of the table (R118). -/
def moveIndex (p : Params) (fracIndex : Nat) (step : Int) : Nat :=
  (clamp ((fracIndex : Int) + step) 0 ((p.tableSize : Int) - 1)).toNat

/-- `applyUpdate(c)`, the update stage (R118). -/
def applyUpdate (c : Int) (s : State) : State :=
  { s with
    fracIndex := moveIndex s.cfg s.fracIndex (updateStep s.firstUpdate c)
    firstUpdate := false
    synthReg := fracWord s.cfg (moveIndex s.cfg s.fracIndex (updateStep s.firstUpdate c)) }

/-- The SETTINGS word that answers a SYNGET (R93, R120). -/
def settingsAnswer (p : Params) (freq : BitVec 32) : Word :=
  match computeSettings p (freqOf freq) with
  | some st =>
      settingsWord (BitVec.ofNat 16 st.fracIndex) st.firstUpdate false (BitVec.ofNat 32 st.adder)
  | none => settingsWord 0#16 false true 0#32

/-- SYNGET (R120). -/
def execSynget (freq : BitVec 32) (s : State) : Host.Outcome State Fault Refusal :=
  .next (respond (settingsAnswer s.cfg freq) s)

end Sys2Proof.Machine
end

