-- ==== Sys2Proof/Machine/Pll.lean ====
section
/-! DEFINITION. software_pll_core (41_pll_core.md): the stages of one observation, resetPll, REFEV. -/

namespace Sys2Proof.Machine

/-- `resetPll()` (R149). -/
def resetPll (s : State) : State :=
  { s with integ := 0, lock := .unlocked, dwell := 0, prevValid := false, wdog := 0 }

/-- `prime(COUNT)` (R141). -/
def prime (count : Nat) (s : State) : State := { s with prevCount := count, prevValid := true }

/-- The error sample of `measure(COUNT)` (R142). -/
def errorSample (timerMod count prevCount adder : Nat) : Int :=
  sres timerMod (wsub timerMod (wsub timerMod count prevCount) adder)

/-- The integrator after the sample `e` (R145). -/
def integrate (p : Params) (integ e : Int) : Int := clamp (integ + e) (-(p.iMax : Int)) (p.iMax : Int)

/-- The clamped correction from the sample and the NEW integrator (R145). -/
def correction (p : Params) (integ e : Int) : Int :=
  clamp (floorShift (p.kp * e + p.ki * integ) p.gainShift) (-(p.maxStep : Int)) (p.maxStep : Int)

/-- The LockState after a sample of magnitude `a` (R147). -/
def nextLock (p : Params) (lock : LockState) (dwell a : Nat) : LockState :=
  match lock with
  | .unlocked => .acquiring
  | .acquiring =>
      if a < p.lockThreshold ∧ p.minDwell ≤ min (dwell + 1) p.minDwell then .locked else .acquiring
  | .locked => if p.unlockThreshold < a then .acquiring else .locked

/-- The dwell count after a sample of magnitude `a` (R147). -/
def nextDwell (p : Params) (lock : LockState) (dwell a : Nat) : Nat :=
  match lock with
  | .unlocked => 0
  | .acquiring => if a < p.lockThreshold then min (dwell + 1) p.minDwell else 0
  | .locked => if p.unlockThreshold < a then 0 else dwell

/-- `piStage(e)` (R145): the integrator written, the correction returned. -/
def piStage (e : Int) (s : State) : State × Int :=
  ({ s with integ := integrate s.cfg s.integ e }, correction s.cfg (integrate s.cfg s.integ e) e)

/-- `lockStage(a)` (R147). -/
def lockStage (a : Nat) (s : State) : State :=
  { s with lock := nextLock s.cfg s.lock s.dwell a, dwell := nextDwell s.cfg s.lock s.dwell a }

/-- Stages 4 to 7 of an observation (R140): measure, PI, update, lock. -/
def takeSample (count : Nat) (s : State) : State :=
  let e := errorSample s.cfg.timerMod count s.prevCount s.adder
  let pi := piStage e { s with prevCount := count }
  lockStage e.natAbs (applyUpdate pi.2 pi.1)

/-- The stages of one forwarded reference event, in their order (R140, R141, R144, R150). -/
def observe (count : Nat) (s : State) : State :=
  if s.prevValid = false then prime count { s with wdog := 0 }
  else if count = s.prevCount then raise .timerStall { s with wdog := 0 }
  else takeSample count { s with wdog := 0 }

/-- A reference event is forwarded when its source is active and a rate is valid (R222). -/
def forwarded (src : ClockSource) (s : State) : Bool := src == s.activeSource && s.rateValid

/-- REFEV (R150). `KIND` is not read. -/
def execRefev (src : ClockSource) (_kind : EventKind) (count : BitVec 32) (s : State) :
    Host.Outcome State Fault Refusal :=
  .next (if forwarded src s then observe (countOf count) s else s)

end Sys2Proof.Machine
end

