-- ==== Sys2Proof/Machine/Arbiter.lean ====
section
/-! DEFINITION. clock_source_arbiter (43_arbiter.md): the switch sequence, the fallback, the
control-plane, interrupt and audio messages, and the control-loop domain's internal steps TIMEOUT
(41_pll_core.md R152) and NOTE. -/

namespace Sys2Proof.Machine

/-- `switchSeq(src, r)` (R224). The caller has checked that `r` is supported (log 14). -/
def switchSeq (src : ClockSource) (r : Option (BitVec 32)) (s : State) : State :=
  match r with
  | some rate =>
      enable (settingsFor s.cfg (freqOf rate))
        { resetPll { s with activeSource := src } with currentRate := rate, rateValid := true }
  | none => { resetPll { s with activeSource := src } with firstUpdate := true }

/-- The rate a source change keeps: `if rateValid = 1 then currentRate else none` (R226, R230). -/
def keptRate (s : State) : Option (BitVec 32) := if s.rateValid then some s.currentRate else none

/-- `fallback(bit)` (R226): the arbiter's own move to Internal. -/
def fallBack (cause : Condition) (s : State) : State :=
  switchSeq .internal (keptRate s) (raise .fallback (raise cause s))

/-- A requested target rate (R232, R234): nothing when it is in force, UnsupportedFrequency, or a
switch sequence. -/
def requestRate (freq : BitVec 32) (s : State) : State :=
  if s.rateValid = true ∧ freq = s.currentRate then s
  else match computeSettings s.cfg (freqOf freq) with
    | none => raise .unsupportedFreq s
    | some _ => switchSeq s.activeSource (some freq) s

/-- SELSRC (R230). -/
def execSelsrc (src : ClockSource) (s : State) : Host.Outcome State Fault Refusal :=
  .next
    (if sourcePresent s.cfg src = false then raise .badCmd s
     else if flagSet s.flags .hardFail = true ∧ src ≠ .internal then raise .badCmd s
     else if src = s.activeSource then s
     else switchSeq src (keptRate s) s)

/-- SETRATE (R232). -/
def execSetrate (freq : BitVec 32) (s : State) : Host.Outcome State Fault Refusal :=
  .next (requestRate freq s)

/-- RATEIRQ (R234): as SETRATE, from the clock-interrupt port. -/
def execRateirq (freq : BitVec 32) (s : State) : Host.Outcome State Fault Refusal :=
  .next (requestRate freq s)

/-- LOS (R236). -/
def execLos (src : ClockSource) (s : State) : Host.Outcome State Fault Refusal :=
  .next (if src = s.activeSource ∧ src ≠ .internal then fallBack .los s else s)

/-- The STATUS word of a state (R92, R238). -/
def statusAnswer (s : State) : Word :=
  statusWord s.activeSource (lockCode s.lock) s.rateValid s.flags s.currentRate

/-- GETSTATUS (R238). -/
def execGetstatus (s : State) : Host.Outcome State Fault Refusal := .next (respond (statusAnswer s) s)

/-- CLRFLAGS (R240). -/
def execClrflags (mask : BitVec 8) (s : State) : Host.Outcome State Fault Refusal :=
  .next { s with flags := clearFlags s.flags mask }

/-- AUDMSG (R242): it wakes the wait and changes no state; `PAYLOAD` is not read. -/
def execAudmsg (_payload : BitVec 32) (s : State) : Host.Outcome State Fault Refusal := .next s

/-- Enabling condition of TIMEOUT (R152). -/
def timeoutEnabled (s : State) : Bool :=
  s.activeSource != .internal && s.rateValid && decide (s.cfg.refTimeoutTicks ≤ s.wdog)

/-- TIMEOUT (R152). -/
def execTimeout (s : State) : Host.Outcome State Fault Refusal :=
  whenEnabled (timeoutEnabled s) .timeout
    (switchSeq .internal (some s.currentRate) (raise .fallback (raise .refTimeout s)))

/-- Enabling condition of NOTE (R244). -/
def noteEnabled (s : State) : Bool := s.noteMissed || s.noteHardFail

/-- The first line of NOTE: a missed deadline (R244). -/
def takeMissed (s : State) : State :=
  if s.noteMissed then { raise .missedDeadline s with noteMissed := false } else s

/-- The rest of NOTE: a hard failure (R244). -/
def takeHardFail (s : State) : State :=
  if s.noteHardFail then
    if s.activeSource = .internal then raise .hardFail { s with noteHardFail := false }
    else fallBack .hardFail { s with noteHardFail := false }
  else s

/-- NOTE (R244). -/
def execNote (s : State) : Host.Outcome State Fault Refusal :=
  whenEnabled (noteEnabled s) .note (takeHardFail (takeMissed s))

end Sys2Proof.Machine
end

