-- ==== Sys2Proof/Machine/PinDriver.lean ====
section
/-! DEFINITION. pll_reference_pin_driver and the time base (42_pin_driver.md). -/

namespace Sys2Proof.Machine

/-- `deliver(r)` (R184): the arrival of a pin request. -/
def deliver (r : PinRequest) (s : State) : State := if s.failed then s else { s with mailbox := some r }

/-- PININIT (R180). -/
def execPininit (s : State) : Host.Outcome State Fault Refusal := .next (deliver .init s)

/-- PINTGL (R181). -/
def execPintgl (s : State) : Host.Outcome State Fault Refusal := .next (deliver .immediate s)

/-- PINTGLT (R182). -/
def execPintglt (off : BitVec 32) (s : State) : Host.Outcome State Fault Refusal :=
  .next (deliver (.timed off) s)

/-- `PIN_IDLE` as a level (00_scope.md R8). -/
def idleLevel (p : Params) : PinLevel := if p.pinIdle then .high else .low

/-- `acceptTimed(off)` (R190). -/
def acceptTimed (off : Int) (s : State) : State :=
  if off < (s.cfg.minLeadTicks : Int) then { s with noteMissed := true, inflight := some 0 }
  else { s with inflight := some off }

/-- The acceptance of a request (R188). -/
def acceptRequest (r : PinRequest) (s : State) : State :=
  match r with
  | .init => { s with pin := idleLevel s.cfg }
  | .immediate => { s with inflight := some 0 }
  | .timed off => acceptTimed (offsetOf off) s

/-- Enabling condition of PACCEPT (R188). -/
def pacceptEnabled (s : State) : Bool := !s.failed && s.inflight.isNone && s.mailbox.isSome

/-- The mailbox emptied and its request accepted (R188). -/
def takeRequest (s : State) : State :=
  match s.mailbox with
  | some r => acceptRequest r { s with mailbox := none }
  | none => s

/-- PACCEPT (R188). -/
def execPaccept (s : State) : Host.Outcome State Fault Refusal :=
  whenEnabled (pacceptEnabled s) .paccept (takeRequest s)

/-- `flip` (R192): a flip of `undef` is `undef`. -/
def flipLevel : PinLevel → PinLevel
  | .undef => .undef
  | .low => .high
  | .high => .low

/-- Enabling condition of PFLIP: the window around the nominal instant (R192). -/
def pflipEnabled (s : State) : Bool :=
  match s.inflight with
  | some rem => decide (-(s.cfg.jitterTicks : Int) ≤ rem) && decide (rem ≤ (s.cfg.jitterTicks : Int))
  | none => false

/-- PFLIP (R192). -/
def execPflip (s : State) : Host.Outcome State Fault Refusal :=
  whenEnabled (pflipEnabled s) .pflip { s with pin := flipLevel s.pin, inflight := none }

/-- Time may pass as far as the committed flip is concerned (R196). -/
def windowOpen (s : State) : Bool :=
  match s.inflight with
  | some rem => decide (-(s.cfg.jitterTicks : Int) < rem)
  | none => true

/-- Enabling condition of TICK, with its two urgency conditions (R196). -/
def tickEnabled (s : State) : Bool := !pacceptEnabled s && windowOpen s

/-- TICK (R196), with the ghost count of R42. -/
def execTick (s : State) : Host.Outcome State Fault Refusal :=
  whenEnabled (tickEnabled s) .tick
    { s with
      wdog := min (s.wdog + 1) s.cfg.refTimeoutTicks
      inflight := s.inflight.map (fun rem => rem - 1)
      now := s.now + 1 }

/-- PINFAULT (R198). -/
def execPinfault (s : State) : Host.Outcome State Fault Refusal :=
  .next
    { s with
      failed := true, noteHardFail := true, mailbox := none, inflight := none, pin := .undef }

end Sys2Proof.Machine
end

