-- ==== Sys2Proof/Machine/Reset.lean ====
section
/-! DEFINITION. The reset event (70_reset_and_hazards.md R300). -/

namespace Sys2Proof.Machine

/-- RESET (R300): every element to the reset column of 10_state.md R21. The two unspecified elements get
free values (log 9); the model's own fields stay (log 18). -/
def execReset (s : State) : Host.Outcome State Fault Refusal :=
  .next
    { State.resetWith s.cfg with
      prevCount := Config.freeCountValue s.freeCount % s.cfg.timerMod
      synthReg := Config.freeSynthWord s.freeCount
      schedule := s.schedule
      owed := s.owed
      patience := s.patience
      outbox := s.outbox
      freeCount := s.freeCount + 1
      now := s.now }

end Sys2Proof.Machine
end

