-- ==== Sys2Proof/Machine/Dispatch.lean ====
section
/-! DEFINITION. One arm per row of the opcode table, each one call of its meaning. -/

namespace Sys2Proof.Machine

def exec (i : Instr) (s : State) : Host.Outcome State Fault Refusal :=
  match i with
  | .selsrc src => Sys2Proof.Machine.execSelsrc src s
  | .setrate freq => Sys2Proof.Machine.execSetrate freq s
  | .getstatus => Sys2Proof.Machine.execGetstatus s
  | .clrflags mask => Sys2Proof.Machine.execClrflags mask s
  | .synget freq => Sys2Proof.Machine.execSynget freq s
  | .refev src kind count => Sys2Proof.Machine.execRefev src kind count s
  | .los src => Sys2Proof.Machine.execLos src s
  | .rateirq freq => Sys2Proof.Machine.execRateirq freq s
  | .audmsg payload => Sys2Proof.Machine.execAudmsg payload s
  | .pininit => Sys2Proof.Machine.execPininit s
  | .pintgl => Sys2Proof.Machine.execPintgl s
  | .pintglt off => Sys2Proof.Machine.execPintglt off s
  | .pinfault => Sys2Proof.Machine.execPinfault s
  | .status src lock rateValid flags rate => Sys2Proof.Machine.execStatus src lock rateValid flags rate s
  | .settings fracIndex firstUpdate unsup adder => Sys2Proof.Machine.execSettings fracIndex firstUpdate unsup adder s
  | .timeout => Sys2Proof.Machine.execTimeout s
  | .note => Sys2Proof.Machine.execNote s
  | .paccept => Sys2Proof.Machine.execPaccept s
  | .pflip => Sys2Proof.Machine.execPflip s
  | .tick => Sys2Proof.Machine.execTick s
  | .reset => Sys2Proof.Machine.execReset s

end Sys2Proof.Machine
end

