-- ==== Sys2Proof/Machine/Fetch.lean ====
section
/-! DEFINITION. What is taken next: a step that is due, or else the head of the schedule, or with an
empty schedule an enabled internal step (43_arbiter.md R220, 20_memory.md R67; log 3, log 4). -/

namespace Sys2Proof.Machine

/-- The instruction of an internal step. -/
def InternalStep.instr : InternalStep → Instr
  | .timeout => .timeout
  | .note => .note
  | .paccept => .paccept
  | .pflip => .pflip
  | .tick => .tick
  | .reset => .reset

/-- The enabling condition of each internal step; RESET may come at any time (R300). -/
def stepEnabled (s : State) : InternalStep → Bool
  | .timeout => timeoutEnabled s
  | .note => noteEnabled s
  | .paccept => pacceptEnabled s
  | .pflip => pflipEnabled s
  | .tick => tickEnabled s
  | .reset => true

/-- The steps the block takes by itself (R94); RESET is the environment's. -/
def ownSteps : List InternalStep := [.timeout, .note, .paccept, .pflip, .tick]

/-- The block's own steps that are enabled. -/
def enabledSteps (s : State) : List InternalStep := ownSteps.filter (stepEnabled s)

/-- What a step works on. -/
inductive Fetched where
  | run (i : Instr) (s : State)
  | illegal (w : Word) (s : State)
  | nothing
  deriving DecidableEq, Repr

/-- Among two or more enabled steps, the one the free choice names (log 4). -/
def chosenStep (k : InternalStep) (ks : List InternalStep) (n : Nat) : InternalStep :=
  (k :: ks).getD (Config.freeChoice n % (ks.length + 1)) k

/-! ### Fairness (R67, R70, R271; log 4)

Steps are taken in rounds. A round opens with the own steps that are enabled, which are then owed, and
with a free number of turns, its patience. An owed step that is taken or disabled is owed no longer.
When the patience is used up, the steps still owed come before anything else, and then a new round
opens: so every step that stays enabled is taken after finitely many steps, and any finite number of
steps may come before it. -/

/-- The owed steps that have stayed enabled. -/
def stillOwed (s : State) : List InternalStep := s.owed.filter (enabledSteps s).contains

/-- The step that has to be taken now: the patience is used up and the step is still owed. -/
def dueStep (s : State) : Option InternalStep :=
  match s.patience with
  | 0 => (stillOwed s).head?
  | _ + 1 => none

/-- With no patience left a free turn opens a round, unless nothing could be passed over in it. -/
def roundOpens (s : State) : Bool :=
  s.patience == 0 && !(s.schedule.isEmpty && decide ((enabledSteps s).length ≤ 1))

/-- A turn that no due step claims: it opens a round or uses up one turn of the patience. -/
def passTurn (s : State) : State :=
  { s with
    owed := if roundOpens s then enabledSteps s else stillOwed s
    patience := if roundOpens s then Config.freePatience s.freeCount else s.patience - 1
    freeCount := if roundOpens s then s.freeCount + 1 else s.freeCount }

/-- What an idle turn takes: one of the enabled steps. -/
def takeIdle (s : State) : Option (Event × State) :=
  match enabledSteps s with
  | [] => none
  | [k] => some (.internal k, s)
  | k :: ks => some (.internal (chosenStep k ks s.freeCount), { s with freeCount := s.freeCount + 1 })

/-- What a free turn takes: the head of the schedule, or with nothing scheduled an enabled step. -/
def takeFree (s : State) : Option (Event × State) :=
  match s.schedule with
  | e :: rest => some (e, { s with schedule := rest })
  | [] => takeIdle s

/-- What a step takes, and the state it runs on: a due step first. -/
def take (s : State) : Option (Event × State) :=
  match dueStep s with
  | some k => some (.internal k, { s with owed := stillOwed s })
  | none => takeFree (passTurn s)

/-- What a step takes. -/
def taken (s : State) : Option Event := (take s).map Prod.fst

/-- A word: decoded, or illegal (R102). -/
def fetchWord (w : Word) (s : State) : Fetched :=
  match decode s.cfg.timerMod w with
  | .ok i => .run i s
  | .error _ => .illegal w s

/-- What an event gives to run. An internal step that is taken is owed no longer. -/
def fetchEvent (e : Event) (s : State) : Fetched :=
  match e with
  | .word w => fetchWord w s
  | .internal k => .run k.instr { s with owed := s.owed.erase k }

/-- What the next step works on. -/
def fetch (s : State) : Fetched :=
  match take s with
  | some (e, t) => fetchEvent e t
  | none => .nothing

/-- What the environment sends joins the schedule behind what already waits (R66). -/
def arrive (es : List Event) (s : State) : State := { s with schedule := s.schedule ++ es }

/-- The schedule with events put before it, and as many turns more before a step falls due (log 23). -/
def scheduleFirst (es : List Event) (s : State) : State :=
  { s with schedule := es ++ s.schedule, patience := s.patience + es.length }

end Sys2Proof.Machine
end

