-- ==== Sys2Proof/Machine/Step.lean ====
section
/-! DEFINITION. One step of the machine: take what is next and run it. -/

namespace Sys2Proof.Machine

/-- One step (R15): the instruction that was fetched, or the handling of an illegal word (R96). -/
def step (s : State) : Host.Outcome State Fault Refusal :=
  match fetch s with
  | .run i t => exec i t
  | .illegal w t => .next (illegalWord w t)
  | .nothing => .refused .nothingEnabled

/-- The state with a table row's word as the next input to be taken (log 3, log 23). -/
def State.withFetchWord (s : State) (nbits w : Nat) : State :=
  scheduleFirst [.word (tableWord nbits w)] s

end Sys2Proof.Machine
end

