-- ==== Sys2Proof/Safety.lean ====
section
/-! DEFINITION. The terms claims use: the invariants of 10_state.md R43 and of the element ranges, the
state after a switch sequence as R224 lists it, runs, and the views two runs are compared by. -/

namespace Sys2Proof.Safety

open Sys2Proof.Machine

/-- The invariants of R43 over valid parameters. (I-d) holds by the type of `lock`. -/
structure Inv (s : State) : Prop where
  params : s.cfg.Valid
  /-- I-a. -/
  fracIndex_lt : s.fracIndex < s.cfg.tableSize
  /-- I-b. -/
  adder_lt : s.adder < s.cfg.timerMod
  /-- I-c. -/
  integ_low : -(s.cfg.iMax : Int) ≤ s.integ
  integ_high : s.integ ≤ (s.cfg.iMax : Int)
  /-- I-e. -/
  locked : s.lock = .locked → s.prevValid = true ∧ s.firstUpdate = false ∧ s.rateValid = true
  /-- I-f. -/
  synthValid_eq : s.synthValid = s.rateValid
  synthReg_eq : s.synthValid = true → s.synthReg = fracWord s.cfg s.fracIndex
  /-- I-g. -/
  hardFail_internal : s.flags.getLsbD 4 = true → s.activeSource = .internal
  /-- I-h. -/
  failed_idle : s.failed = true → s.mailbox = none ∧ s.inflight = none ∧ s.pin = .undef
  /-- I-i. -/
  inflight_low : ∀ rem, s.inflight = some rem → -(s.cfg.jitterTicks : Int) ≤ rem
  /-- I-j. -/
  unprimed : s.prevValid = false → s.lock = .unlocked ∧ s.integ = 0

/-- The ranges and ties of the single elements that R24, R25, R27, R28, R31, R32 and R38 state. -/
structure Bounds (s : State) : Prop where
  /-- R28. -/
  prevCount_lt : s.prevCount < s.cfg.timerMod
  /-- R31. -/
  dwell_le : s.dwell ≤ s.cfg.minDwell
  /-- R32. -/
  wdog_le : s.wdog ≤ s.cfg.refTimeoutTicks
  /-- R38. -/
  inflight_high : ∀ rem, s.inflight = some rem → rem ≤ 2 ^ 31 - 1
  /-- R24. -/
  noRate : s.rateValid = false → s.currentRate = 0#32
  /-- R24: a valid rate is one that was accepted. -/
  rate_supported : s.rateValid = true → supported s.cfg s.currentRate.toNat
  /-- R24, R25: `adder` was computed for `currentRate`. -/
  rate_adder : s.rateValid = true → s.adder = (settingsFor s.cfg s.currentRate.toNat).adder
  /-- R27, R30: armed exactly until the first error sample. -/
  armed : s.firstUpdate = true ↔ s.lock = .unlocked

/-- The state after `switchSeq(src, r)`, as R224 lists it. -/
def afterSwitch (src : ClockSource) (r : Option (BitVec 32)) (s : State) : State :=
  match r with
  | none =>
      { s with
        activeSource := src
        integ := 0, lock := .unlocked, dwell := 0, prevValid := false, wdog := 0
        firstUpdate := true }
  | some rate =>
      { s with
        activeSource := src
        integ := 0, lock := .unlocked, dwell := 0, prevValid := false, wdog := 0
        firstUpdate := true
        currentRate := rate, rateValid := true
        adder := ((2 * s.cfg.tickRateHz * s.cfg.checkSamples + rate.toNat) / (2 * rate.toNat))
          % s.cfg.timerMod
        fracIndex := s.cfg.fracInit
        synthReg := fracWord s.cfg s.cfg.fracInit
        synthValid := true }

/-- The rate a source change keeps (R226, R230). -/
def rateInForce (s : State) : Option (BitVec 32) :=
  if s.rateValid = true then some s.currentRate else none

/-- A state in which no internal step but TICK is enabled (R306). -/
def quiescent (s : State) : Bool :=
  !timeoutEnabled s && !noteEnabled s && !pacceptEnabled s && !pflipEnabled s

/-- A run: the instructions taken one after another (R15, R100). -/
def runInstrs : List Instr → State → Host.Outcome State Fault Refusal
  | [], s => .next s
  | i :: is, s =>
    match exec i s with
    | .next t => runInstrs is t
    | .fault r => .fault r
    | .refused r => .refused r

/-- An infinite run: before the step number `n` the environment sends `inputs n`. -/
def IsRun (inputs : Nat → List Event) (run : Nat → State) : Prop :=
  ∀ n, step (arrive (inputs n) (run n)) = .next (run (n + 1))

/-- What step number `n` of a run takes. -/
def takenAt (inputs : Nat → List Event) (run : Nat → State) (n : Nat) : Option Event :=
  taken (arrive (inputs n) (run n))

/-- A fair run (R67, R271): no own step stays enabled for ever without being taken, and everything that
waits in the schedule is taken. -/
structure Fair (inputs : Nat → List Event) (run : Nat → State) : Prop where
  /-- From every instant on, each own step is at some time disabled or taken. -/
  own_steps : ∀ (n : Nat) (k : InternalStep), k ∈ ownSteps →
    ∃ m, n ≤ m ∧ (stepEnabled (run m) k = false ∨ takenAt inputs run m = some (.internal k))
  /-- An event waiting behind `pre` is at some time the head, and the next state is without it. -/
  inputs_taken : ∀ (n : Nat) (pre post : List Event) (e : Event),
    (arrive (inputs n) (run n)).schedule = pre ++ e :: post →
    ∃ m later, n ≤ m ∧ (arrive (inputs m) (run m)).schedule = e :: (post ++ later) ∧
      takenAt inputs run m = some e ∧ (run (m + 1)).schedule = post ++ later

/-- Step number `n` of a run delivers a pin request: it takes a PININIT, PINTGL or PINTGLT word (R184). -/
def deliversRequest (inputs : Nat → List Event) (run : Nat → State) (n : Nat) : Prop :=
  ∃ (w : Word) (i : Instr), takenAt inputs run n = some (.word w) ∧
    decode (run n).cfg.timerMod w = .ok i ∧ i.mnemonic ∈ [Mnemonic.pininit, .pintgl, .pintglt]

/-- The environment never delivers infinitely many pin requests between two TICK steps (R289): from an
instant after which no TICK is taken, the requests come to an end (log 24). -/
def PacedRequests (inputs : Nat → List Event) (run : Nat → State) : Prop :=
  ∀ n, (∀ m, n ≤ m → takenAt inputs run m ≠ some (.internal .tick)) →
    ∃ last, ∀ m, last ≤ m → ¬ deliversRequest inputs run m

/-- The rows that can run a switch sequence (R246). -/
def switching : List Mnemonic := [.selsrc, .setrate, .rateirq, .los, .timeout, .note]

/-- The rows of the pin-driving domain and of the time base (R16). -/
def pinSide : List Mnemonic := [.pininit, .pintgl, .pintglt, .pinfault, .paccept, .pflip, .tick]

/-- The rows of the control-loop domain (R16), the answers as illegal input among them (R96). -/
def loopSide : List Mnemonic :=
  [.selsrc, .setrate, .getstatus, .clrflags, .synget, .refev, .los, .rateirq, .audmsg, .timeout,
   .note, .status, .settings]

/-- What the pin-driving domain and the time base see. -/
structure PinView where
  cfg : Params
  pin : PinLevel
  mailbox : Option PinRequest
  inflight : Option Int
  failed : Bool
  noteMissed : Bool
  noteHardFail : Bool
  now : Nat
  deriving DecidableEq, Repr

/-- The pin side of a state. -/
def pinView (s : State) : PinView where
  cfg := s.cfg
  pin := s.pin
  mailbox := s.mailbox
  inflight := s.inflight
  failed := s.failed
  noteMissed := s.noteMissed
  noteHardFail := s.noteHardFail
  now := s.now

/-- A state less the values the spec leaves unspecified: `prevCount` while `prevValid = 0` and
`synthReg` while `synthValid = 0` (U11, U12). -/
def hideUnspecified (s : State) : State :=
  { s with
    prevCount := if s.prevValid then s.prevCount else 0
    synthReg := if s.synthValid then s.synthReg else 0#32 }

/-- Two outcomes that agree but for unspecified values. -/
def sameSeen (a b : Host.Outcome State Fault Refusal) : Prop :=
  match a, b with
  | .next s, .next t => hideUnspecified s = hideUnspecified t
  | .refused r, .refused q => r = q
  | .fault _, _ | _, .fault _ | .next _, .refused _ | .refused _, .next _ => False

/-- The nominal delay of an accepted request: the offset, or 0 for an immediate one or one in the past
(R190, R194). -/
def nominalDelay (p : Params) : PinRequest → Int
  | .init => 0
  | .immediate => 0
  | .timed off => if off.toInt < (p.minLeadTicks : Int) then 0 else off.toInt

/-- Each count but the first differs from the one before it and gives an error sample under
LOCK_THRESHOLD. -/
def quietCounts (p : Params) (adder : Nat) : List (BitVec 32) → Prop
  | [] => True
  | [_] => True
  | a :: b :: rest =>
      b ≠ a ∧ (errorSample p.timerMod b.toNat a.toNat adder).natAbs < p.lockThreshold ∧
        quietCounts p adder (b :: rest)

/-- How many reference events a run takes. -/
def eventCount (is : List Instr) : Nat := (is.filter (fun i => i.mnemonic == .refev)).length

end Sys2Proof.Safety
end

