-- ==== Sys2Proof/Certificates/Slice0/Obligations.lean ====
section
/-! DEFINITION. The statements. Every statement quantifies over the parameter record, which each state
carries; OBLIGATIONS.json says which rule each one formalises. -/

open Sys2Proof Sys2Proof.Machine Sys2Proof.Safety

/-! ## Encoding (30_encoding.md) -/

/-- Words of 95_test_vectors.md section 3.1 decode as that table says. -/
def Obligations.SpecVectorsDecode : Prop :=
  decode 65536 0x1000000200000000#64 = .ok (.selsrc .adat) ∧
  decode 65536 0x110000000000BB80#64 = .ok (.setrate 48000#32) ∧
  decode 65536 0x1200000000000000#64 = .ok .getstatus ∧
  decode 65536 0x13000000000000FF#64 = .ok (.clrflags 0xFF#8) ∧
  decode 65536 0x140000000000BB80#64 = .ok (.synget 48000#32) ∧
  decode 65536 0x2000000600004E20#64 = .ok (.refev .adat .rateReport 20000#32) ∧
  decode 65536 0x2100000300000000#64 = .ok (.los .hostFeedback) ∧
  decode 65536 0x300000000000AC44#64 = .ok (.rateirq 44100#32) ∧
  decode 65536 0x4000000000001234#64 = .ok (.audmsg 0x1234#32) ∧
  decode 65536 0x6000000000000000#64 = .ok .pininit ∧
  decode 65536 0x62000000FFFFFFFB#64 = .ok (.pintglt (BitVec.ofInt 32 (-5))) ∧
  decode 65536 0x7000000000000000#64 = .ok .pinfault ∧
  decode 65536 0x1000000400000000#64 = .error .reservedBits ∧
  decode 65536 0x1500000000000000#64 = .error .unassignedOpcode ∧
  decode 65536 0x2000000000010000#64 = .error .countOutOfRange

/-- Decoding the word of a well-formed instruction gives the instruction back, whatever its operands. -/
def Obligations.DecodeOfEncodeIsIdentity : Prop :=
  ∀ (timerMod : Nat) (i : Instr) (w : Word),
    wellFormed timerMod i = true → encode i = some w → decode timerMod w = .ok i

/-- Every accepted word is the word of the instruction it decodes to: no bit is dropped, and no two
words mean one instruction. -/
def Obligations.EncodeOfDecodeIsIdentity : Prop :=
  ∀ (timerMod : Nat) (w : Word) (i : Instr), decode timerMod w = .ok i → encode i = some w

/-- R85: a word is the message of a row exactly when `(W AND mask) = match` and the row's extra
condition holds; `match` and `mask` are the rule's own numbers. -/
def Obligations.MessagesAreTheOpcodeMapRows : Prop :=
  ∀ (timerMod : Nat) (w : Word) (op : Opcode),
    (∃ i : Instr, decode timerMod w = .ok i ∧ i.isMessage = true ∧ opcodeOfInstr i = some op) ↔
    (∃ r : MapRow, r ∈ opcodeMap ∧ r.opcode = op ∧ r.matches w = true ∧
      (op = .refev → (w.extractLsb' 0 32).toNat < timerMod))

/-- R102's claim that at most one row can match. -/
def Obligations.AtMostOneRowMatches : Prop :=
  ∀ (w : Word) (r q : MapRow), r ∈ opcodeMap → q ∈ opcodeMap →
    r.matches w = true → q.matches w = true → r = q

/-! ## The step -/

/-- A step runs what it takes: a step that is due, or else the head of the schedule, which for a word that
decodes to `i` is `exec i`. A turn changes the model's own fields alone; that due steps come first is the
model's way to fairness (log 4). -/
def Obligations.StepRunsWhatIsTaken : Prop :=
  ∀ (s : State) (rest : List Event),
    (∀ (w : Word) (i : Instr), dueStep s = none → s.schedule = .word w :: rest →
      decode s.cfg.timerMod w = .ok i → step s = exec i { passTurn s with schedule := rest }) ∧
    (∀ k : InternalStep, dueStep s = none → s.schedule = .internal k :: rest →
      step s = exec k.instr { passTurn s with schedule := rest, owed := (passTurn s).owed.erase k }) ∧
    (∀ k : InternalStep, dueStep s = some k →
      step s = exec k.instr { s with owed := (stillOwed s).erase k }) ∧
    (∃ (owed : List InternalStep) (patience freeCount : Nat),
      passTurn s = { s with owed := owed, patience := patience, freeCount := freeCount })

/-- R96: a word that is the message of no row of R85's map is dropped on ports 6 and 7 and sets `flags[6]`
alone on every other port. The turn it takes changes the model's own fields only (log 4). -/
def Obligations.IllegalWordsAreRaisedOrDropped : Prop :=
  ∀ (s : State) (w : Word) (rest : List Event),
    dueStep s = none → s.schedule = .word w :: rest →
    (∀ r : MapRow, r ∈ opcodeMap → r.matches w = true →
      r.opcode = .refev ∧ s.cfg.timerMod ≤ (w.extractLsb' 0 32).toNat) →
    ((w.extractLsb' 60 4 = 6#4 ∨ w.extractLsb' 60 4 = 7#4) →
      step s = .next { passTurn s with schedule := rest }) ∧
    (¬ (w.extractLsb' 60 4 = 6#4 ∨ w.extractLsb' 60 4 = 7#4) →
      step s = .next { passTurn s with schedule := rest, flags := s.flags ||| 0x40#8 })

/-- R67, R271, R70: every run is fair, whatever the environment sends and whenever: each own step that
stays enabled is taken after finitely many steps, and so is everything that waits in the schedule; and
while a notification waits, a NOTE follows, unless a RESET clears it first. -/
def Obligations.EveryRunIsFair : Prop :=
  ∀ (inputs : Nat → List Event) (run : Nat → State), IsRun inputs run →
    Fair inputs run ∧
    ∀ n : Nat, noteEnabled (run n) = true →
      ∃ m, n ≤ m ∧ (takenAt inputs run m = some (.internal .note) ∨
        takenAt inputs run m = some (.internal .reset))

/-- With nothing scheduled the machine completes one of its own enabled steps; which one of several is
the free choice (log 4), and only the model's own fields tell that a choice was made. -/
def Obligations.IdleStepTakesAnEnabledStep : Prop :=
  ∀ s : State, Inv s → s.schedule = [] →
    ∃ (k : InternalStep) (owed : List InternalStep) (patience n : Nat) (t : State),
      k ∈ ownSteps ∧ stepEnabled s k = true ∧ s.freeCount ≤ n ∧ n ≤ s.freeCount + 2 ∧
      taken s = some (.internal k) ∧
      step s = exec k.instr { s with owed := owed, patience := patience, freeCount := n } ∧
      step s = .next t

/-- R275: no word stops the loop. In every state whose next input is a word, whatever the word and its
port, the step goes on: the word is handled, or a due step is taken and the word still waits. Which of the
two happens first is open in the spec (R67); that a due step comes before the word is the model's choice
(log 4). -/
def Obligations.EveryWordIsHandled : Prop :=
  ∀ (s : State) (w : Word) (rest : List Event),
    s.schedule = .word w :: rest →
    ∃ t : State, step s = .next t ∧
      (dueStep s = none → t.schedule = rest) ∧ (dueStep s ≠ none → t.schedule = s.schedule)

/-! ## Reset (70_reset_and_hazards.md) -/

/-- R300: RESET in any state completes with every specified element at the reset value, and no other step
clears `failed` or `flags[4]` or makes `rateValid` 0 again. -/
def Obligations.ResetWritesTheResetColumn : Prop :=
  (∀ s : State, ∃ t : State, exec .reset s = .next t ∧
    t.activeSource = .internal ∧ t.currentRate = 0#32 ∧ t.rateValid = false ∧
    t.adder = 0 ∧ t.fracIndex = s.cfg.fracInit ∧ t.firstUpdate = true ∧
    t.prevValid = false ∧ t.integ = 0 ∧ t.lock = .unlocked ∧ t.dwell = 0 ∧ t.wdog = 0 ∧
    t.flags = 0x00#8 ∧ t.synthValid = false ∧
    t.pin = .undef ∧ t.mailbox = none ∧ t.inflight = none ∧ t.failed = false ∧
    t.noteMissed = false ∧ t.noteHardFail = false) ∧
  (∀ (i : Instr) (s t : State), exec i s = .next t → i ≠ .reset →
    (s.failed = true → t.failed = true) ∧
    (s.flags.getLsbD 4 = true → t.flags.getLsbD 4 = true) ∧
    (s.rateValid = true → t.rateValid = true))

/-- The model's own fields, each the model's choice: no instruction changes the parameters (log 1), the
inputs not yet taken or the state of the round (log 3, log 4), RESET keeps these and the answers already sent
(log 18), and the ghost `now` (log 6, allowed by R42) is the number of TICK steps: TICK adds one, and no other
instruction changes it, RESET included. -/
def Obligations.InstructionsKeepTheModelsOwnFields : Prop :=
  ∀ (i : Instr) (s t : State), exec i s = .next t →
    t.cfg = s.cfg ∧ t.schedule = s.schedule ∧ t.owed = s.owed ∧ t.patience = s.patience ∧
    (i = .reset → t.outbox = s.outbox) ∧
    (i = .tick → t.now = s.now + 1) ∧ (i ≠ .tick → t.now = s.now)

/-- The state after reset meets both invariants, for every valid parameter record. -/
def Obligations.ResetStateMeetsTheInvariants : Prop :=
  State.reset = State.resetWith Params.tvCfg ∧ Params.tvCfg.Valid ∧
  ∀ p : Params, p.Valid → Inv (State.resetWith p) ∧ Bounds (State.resetWith p)

/-- What R301 derives of the state just after RESET, from any state before it. -/
def Obligations.JustAfterReset : Prop :=
  ∀ s t : State, s.cfg.Valid → exec .reset s = .next t →
    exec .getstatus t = .next { t with outbox := t.outbox ++ [0x9200000000000000#64] } ∧
    exec .timeout t = .refused (.notEnabled .timeout) ∧
    exec .note t = .refused (.notEnabled .note) ∧
    exec .paccept t = .refused (.notEnabled .paccept) ∧
    exec .pflip t = .refused (.notEnabled .pflip) ∧
    exec .tick t = .next { t with wdog := 1, now := t.now + 1 } ∧
    (∀ (src : ClockSource) (kind : EventKind) (count : BitVec 32),
      exec (.refev src kind count) t = .next t)

/-! ## Invariants -/

/-- R43: every step keeps the invariants I-a to I-j, from every state that meets them. -/
def Obligations.StepKeepsTheInvariants : Prop :=
  ∀ s t : State, Inv s → step s = .next t → Inv t

/-- Every step keeps the element ranges of 10_state.md. -/
def Obligations.StepKeepsTheBounds : Prop :=
  ∀ s t : State, Inv s → Bounds s → step s = .next t → Bounds t

/-- R5: no message and no internal transition changes a parameter. -/
def Obligations.StepKeepsTheParameters : Prop :=
  ∀ s t : State, step s = .next t → t.cfg = s.cfg

/-! ## Arithmetic and procedures -/

/-- R12: the wrapping subtraction and the centred residue, with their ranges and the document's
example. -/
def Obligations.ModulusArithmetic : Prop :=
  (∀ m a b : Nat, a < m → b < m →
    ((wsub m a b : Nat) : Int) = ((a : Int) - (b : Int)) % (m : Int) ∧ wsub m a b < m) ∧
  (∀ m r : Nat, r < m →
    (2 * r < m → sres m r = (r : Int)) ∧ (m ≤ 2 * r → sres m r = (r : Int) - (m : Int)) ∧
    -((m / 2 : Nat) : Int) ≤ sres m r ∧ sres m r ≤ (((m - 1) / 2 : Nat) : Int)) ∧
  wsub 65536 4 65530 = 10

/-- R142, R143: the error sample is the one number in the centred range that is congruent to advance
minus `adder` modulo TIMER_MOD. -/
def Obligations.ErrorSampleIsTheCentredResidue : Prop :=
  ∀ (m count prev adder : Nat) (e : Int), 2 ≤ m → count < m → prev < m → adder < m →
    (errorSample m count prev adder = e ↔
      (-((m / 2 : Nat) : Int) ≤ e ∧ e ≤ (((m - 1) / 2 : Nat) : Int) ∧
        (m : Int) ∣ ((count : Int) - (prev : Int) - (adder : Int) - e)))

/-- R110, R112: computeSettings fails exactly on unsupported frequencies and else gives the formula. -/
def Obligations.ComputeSettingsFollowsItsRule : Prop :=
  ∀ (p : Params) (f : Nat),
    (1 ≤ f ∧ f ≤ p.fMax ∧ (f % 48000 = 0 ∨ f % 44100 = 0) →
      computeSettings p f = some
        { adder := ((2 * p.tickRateHz * p.checkSamples + f) / (2 * f)) % p.timerMod
          fracIndex := p.fracInit
          firstUpdate := true }) ∧
    (¬ (1 ≤ f ∧ f ≤ p.fMax ∧ (f % 48000 = 0 ∨ f % 44100 = 0)) → computeSettings p f = none)

/-- R113: `adder` is the expected advance `TICK_RATE_HZ * CHECK_SAMPLES / f` rounded to the nearest
integer, halves up, then reduced modulo TIMER_MOD; and the rule's values in TV-CFG. -/
def Obligations.AdderIsRoundedHalfUp : Prop :=
  (∀ (p : Params) (f : Nat) (st : Settings), computeSettings p f = some st →
    ∃ n : Nat, st.adder = n % p.timerMod ∧
      2 * f * n ≤ 2 * (p.tickRateHz * p.checkSamples) + f ∧
      2 * (p.tickRateHz * p.checkSamples) + f < 2 * f * n + 2 * f) ∧
  [44100, 48000, 88200, 96000, 176400, 192000, 22579200, 24576000].map
      (fun f => (computeSettings Params.tvCfg f).map Settings.adder) =
    [some 43308, some 34464, some 54422, some 50000, some 27211, some 25000, some 213, some 195]

/-- R118: the update stage seeds with the whole correction, then moves one table step, saturating at the
ends of the table, and drives the new entry. -/
def Obligations.ApplyUpdateFollowsItsRule : Prop :=
  ∀ (c : Int) (s : State), 1 ≤ s.cfg.tableSize →
    (s.firstUpdate = true →
      ((applyUpdate c s).fracIndex : Int) =
        max 0 (min ((s.fracIndex : Int) + c) ((s.cfg.tableSize : Int) - 1))) ∧
    (s.firstUpdate = false →
      ((applyUpdate c s).fracIndex : Int) =
        max 0 (min ((s.fracIndex : Int) + max (-1) (min c 1)) ((s.cfg.tableSize : Int) - 1))) ∧
    applyUpdate c s =
      { s with
        fracIndex := (applyUpdate c s).fracIndex
        firstUpdate := false
        synthReg := fracWord s.cfg (applyUpdate c s).fracIndex }

/-- R145: the sample is integrated first, the integrator saturates, and the correction is the floor of
the gain sum over 2^GAIN_SHIFT, clamped to MAX_STEP; nothing but the integrator is written. -/
def Obligations.PiStageFollowsItsRule : Prop :=
  ∀ (e : Int) (s : State),
    (piStage e s).1 = { s with integ := max (-(s.cfg.iMax : Int)) (min (s.integ + e) (s.cfg.iMax : Int)) } ∧
    ∃ u : Int,
      u * 2 ^ s.cfg.gainShift ≤ s.cfg.kp * e + s.cfg.ki * (piStage e s).1.integ ∧
      s.cfg.kp * e + s.cfg.ki * (piStage e s).1.integ < (u + 1) * 2 ^ s.cfg.gainShift ∧
      (piStage e s).2 = max (-(s.cfg.maxStep : Int)) (min u (s.cfg.maxStep : Int))

/-- R147: the lock stage, row by row. -/
def Obligations.LockStageFollowsItsTable : Prop :=
  ∀ (a : Nat) (s : State), 1 ≤ s.cfg.minDwell →
    (s.lock = .unlocked → lockStage a s = { s with lock := .acquiring, dwell := 0 }) ∧
    (s.lock = .acquiring → a < s.cfg.lockThreshold → s.dwell + 1 < s.cfg.minDwell →
      lockStage a s = { s with dwell := s.dwell + 1 }) ∧
    (s.lock = .acquiring → a < s.cfg.lockThreshold → s.cfg.minDwell ≤ s.dwell + 1 →
      lockStage a s = { s with lock := .locked, dwell := s.cfg.minDwell }) ∧
    (s.lock = .acquiring → s.cfg.lockThreshold ≤ a → lockStage a s = { s with dwell := 0 }) ∧
    (s.lock = .locked → s.cfg.unlockThreshold < a →
      lockStage a s = { s with lock := .acquiring, dwell := 0 }) ∧
    (s.lock = .locked → a ≤ s.cfg.unlockThreshold → lockStage a s = s)

/-- R224: the switch sequence, with a rate (whose settings the caller has checked) and without one. -/
def Obligations.SwitchSequenceFollowsItsRule : Prop :=
  ∀ (src : ClockSource) (s : State),
    (∀ (rate : BitVec 32) (st : Settings), computeSettings s.cfg rate.toNat = some st →
      switchSeq src (some rate) s =
        { s with
          activeSource := src
          integ := 0, lock := .unlocked, dwell := 0, prevValid := false, wdog := 0
          currentRate := rate, rateValid := true
          adder := st.adder, fracIndex := s.cfg.fracInit, firstUpdate := true
          synthReg := fracWord s.cfg s.cfg.fracInit, synthValid := true }) ∧
    switchSeq src none s =
      { s with
        activeSource := src
        integ := 0, lock := .unlocked, dwell := 0, prevValid := false, wdog := 0
        firstUpdate := true }

/-- R226: a fallback records its cause and FALLBACK, then switches to Internal at the rate in force. -/
def Obligations.FallbackFollowsItsRule : Prop :=
  ∀ (cause : Condition) (s : State),
    (s.rateValid = true →
      fallBack cause s = switchSeq .internal (some s.currentRate)
        { s with flags := s.flags ||| (1#8 <<< cause.code) ||| 0x80#8 }) ∧
    (s.rateValid = false →
      fallBack cause s = switchSeq .internal none
        { s with flags := s.flags ||| (1#8 <<< cause.code) ||| 0x80#8 })

/-! ## The control-loop domain's messages -/

/-- R230 with R224: SELSRC completes in every state; refused, no transition, or a switch sequence with
or without a rate; nothing else changes. -/
def Obligations.SelsrcFollowsItsRule : Prop :=
  ∀ (src : ClockSource) (s : State),
    (s.cfg.srcPresent.getLsbD (sourceCode src).toNat = false →
      exec (.selsrc src) s = .next { s with flags := s.flags ||| 0x40#8 }) ∧
    (s.flags.getLsbD 4 = true → src ≠ .internal →
      exec (.selsrc src) s = .next { s with flags := s.flags ||| 0x40#8 }) ∧
    (s.cfg.srcPresent.getLsbD (sourceCode src).toNat = true →
      (s.flags.getLsbD 4 = false ∨ src = .internal) →
      (src = s.activeSource → exec (.selsrc src) s = .next s) ∧
      (src ≠ s.activeSource → s.rateValid = false →
        exec (.selsrc src) s = .next (afterSwitch src none s)) ∧
      (src ≠ s.activeSource → s.rateValid = true →
        exec (.selsrc src) s = .next (afterSwitch src (some s.currentRate) s)))

/-- R232: SETRATE completes in every state: nothing for the rate in force, UNSUPPORTED_FREQ and nothing
else for an unsupported one, a switch sequence at the active source for a new supported one. -/
def Obligations.SetrateFollowsItsRule : Prop :=
  ∀ (freq : BitVec 32) (s : State),
    (s.rateValid = true → freq = s.currentRate → exec (.setrate freq) s = .next s) ∧
    ((s.rateValid = false ∨ freq ≠ s.currentRate) → ¬ supported s.cfg freq.toNat →
      exec (.setrate freq) s = .next { s with flags := s.flags ||| 0x01#8 }) ∧
    ((s.rateValid = false ∨ freq ≠ s.currentRate) → supported s.cfg freq.toNat →
      exec (.setrate freq) s = .next (afterSwitch s.activeSource (some freq) s))

/-- R234: RATEIRQ completes in every state with SETRATE's effect. -/
def Obligations.RateirqFollowsItsRule : Prop :=
  ∀ (freq : BitVec 32) (s : State),
    (s.rateValid = true → freq = s.currentRate → exec (.rateirq freq) s = .next s) ∧
    ((s.rateValid = false ∨ freq ≠ s.currentRate) → ¬ supported s.cfg freq.toNat →
      exec (.rateirq freq) s = .next { s with flags := s.flags ||| 0x01#8 }) ∧
    ((s.rateValid = false ∨ freq ≠ s.currentRate) → supported s.cfg freq.toNat →
      exec (.rateirq freq) s = .next (afterSwitch s.activeSource (some freq) s))

/-- R236 with R226: LOS of the active non-Internal source falls back; any other is ignored. -/
def Obligations.LosFollowsItsRule : Prop :=
  ∀ (src : ClockSource) (s : State),
    (src = s.activeSource → src ≠ .internal →
      exec (.los src) s =
        .next (afterSwitch .internal (rateInForce s) { s with flags := s.flags ||| 0xA0#8 })) ∧
    ((src ≠ s.activeSource ∨ src = .internal) → exec (.los src) s = .next s)

/-- R238, R92: GETSTATUS answers the status word and changes nothing else. -/
def Obligations.GetstatusAnswersTheStatusWord : Prop :=
  ∀ s : State,
    exec .getstatus s = .next
      { s with
        outbox := s.outbox ++
          [0x92#8 ++ BitVec.ofNat 24 ((sourceCode s.activeSource).toNat +
              4 * (lockCode s.lock).toNat + 16 * s.rateValid.toNat + 256 * s.flags.toNat) ++
            s.currentRate] }

/-- R240: CLRFLAGS clears the masked flags but never HARD_FAIL, and changes nothing else. -/
def Obligations.ClrflagsFollowsItsRule : Prop :=
  ∀ (mask : BitVec 8) (s : State), ∃ t : State,
    exec (.clrflags mask) s = .next t ∧ t = { s with flags := t.flags } ∧
    ∀ j : Nat, j < 8 →
      t.flags.getLsbD j = (s.flags.getLsbD j && !(mask.getLsbD j && decide (j ≠ 4)))

/-- R242: AUDMSG completes and changes no state. -/
def Obligations.AudmsgChangesNothing : Prop :=
  ∀ (payload : BitVec 32) (s : State), exec (.audmsg payload) s = .next s

/-- R120, R93: SYNGET answers the settings, or UNSUP alone, and changes nothing else. -/
def Obligations.SyngetAnswersTheSettings : Prop :=
  ∀ (freq : BitVec 32) (s : State), s.cfg.Valid →
    (supported s.cfg freq.toNat →
      exec (.synget freq) s = .next
        { s with
          outbox := s.outbox ++
            [0x94#8 ++ BitVec.ofNat 24 (1 * 2 ^ 16 + s.cfg.fracInit) ++
              BitVec.ofNat 32
                (((2 * s.cfg.tickRateHz * s.cfg.checkSamples + freq.toNat) / (2 * freq.toNat))
                  % s.cfg.timerMod)] }) ∧
    (¬ supported s.cfg freq.toNat →
      exec (.synget freq) s = .next
        { s with outbox := s.outbox ++ [0x94#8 ++ BitVec.ofNat 24 (2 ^ 17) ++ 0#32] })

/-- R150 with R141, R144: REFEV completes in every state; not forwarded, priming, stall, or the measured
sample through the PI, update and lock stages in that order. -/
def Obligations.RefevFollowsItsRule : Prop :=
  ∀ (src : ClockSource) (kind : EventKind) (count : BitVec 32) (s : State),
    ((src ≠ s.activeSource ∨ s.rateValid = false) → exec (.refev src kind count) s = .next s) ∧
    (src = s.activeSource → s.rateValid = true → s.prevValid = false →
      exec (.refev src kind count) s =
        .next { s with wdog := 0, prevCount := count.toNat, prevValid := true }) ∧
    (src = s.activeSource → s.rateValid = true → s.prevValid = true → count.toNat = s.prevCount →
      exec (.refev src kind count) s =
        .next { s with wdog := 0, flags := s.flags ||| 0x08#8 }) ∧
    (∀ e : Int, src = s.activeSource → s.rateValid = true → s.prevValid = true →
      count.toNat ≠ s.prevCount →
      e = sres s.cfg.timerMod
        (wsub s.cfg.timerMod (wsub s.cfg.timerMod count.toNat s.prevCount) s.adder) →
      exec (.refev src kind count) s =
        .next (lockStage e.natAbs
          (applyUpdate (piStage e { s with wdog := 0, prevCount := count.toNat }).2
            (piStage e { s with wdog := 0, prevCount := count.toNat }).1)))

/-- R152: TIMEOUT, when enabled, sets REF_TIMEOUT and FALLBACK and switches to Internal at the same rate;
it is enabled exactly on a non-Internal source with a valid rate and an expired watchdog. -/
def Obligations.TimeoutFollowsItsRule : Prop :=
  ∀ s : State,
    (s.activeSource ≠ .internal → s.rateValid = true → s.cfg.refTimeoutTicks ≤ s.wdog →
      exec .timeout s = .next
        (afterSwitch .internal (some s.currentRate) { s with flags := s.flags ||| 0x82#8 })) ∧
    ((s.activeSource = .internal ∨ s.rateValid = false ∨ s.wdog < s.cfg.refTimeoutTicks) →
      exec .timeout s = .refused (.notEnabled .timeout))

/-- R244: NOTE takes the pending notifications, the missed deadline first; a hard failure falls back
when the active source is not Internal. -/
def Obligations.NoteFollowsItsRule : Prop :=
  ∀ s : State,
    (s.noteMissed = true → s.noteHardFail = false →
      exec .note s = .next { s with flags := s.flags ||| 0x04#8, noteMissed := false }) ∧
    (s.noteHardFail = true → s.activeSource = .internal →
      exec .note s = .next
        { s with
          flags := (if s.noteMissed then s.flags ||| 0x04#8 else s.flags) ||| 0x10#8
          noteMissed := false, noteHardFail := false }) ∧
    (s.noteHardFail = true → s.activeSource ≠ .internal →
      exec .note s = .next
        (afterSwitch .internal (rateInForce s)
          { s with
            flags := (if s.noteMissed then s.flags ||| 0x04#8 else s.flags) ||| 0x90#8
            noteMissed := false, noteHardFail := false })) ∧
    (s.noteMissed = false → s.noteHardFail = false →
      exec .note s = .refused (.notEnabled .note))

/-- A STATUS or SETTINGS word as input (R83, R96, U33): BAD_CMD and nothing else. -/
def Obligations.AnswersAsInputRaiseBadCmd : Prop :=
  ∀ (s : State) (src : ClockSource) (lock : BitVec 2) (rateValid : Bool) (flags : BitVec 8)
    (rate : BitVec 32) (fracIndex : BitVec 16) (firstUpdate unsup : Bool) (adder : BitVec 32),
    exec (.status src lock rateValid flags rate) s = .next { s with flags := s.flags ||| 0x40#8 } ∧
    exec (.settings fracIndex firstUpdate unsup adder) s =
      .next { s with flags := s.flags ||| 0x40#8 }

/-! ## The pin-driving domain and the time base -/

/-- R184 with R180, R181, R182: a request replaces the mailbox's content, and a failed driver discards
it; nothing else changes. -/
def Obligations.PinRequestsAreDelivered : Prop :=
  ∀ (off : BitVec 32) (s : State),
    (s.failed = false →
      exec .pininit s = .next { s with mailbox := some .init } ∧
      exec .pintgl s = .next { s with mailbox := some .immediate } ∧
      exec (.pintglt off) s = .next { s with mailbox := some (.timed off) }) ∧
    (s.failed = true →
      exec .pininit s = .next s ∧ exec .pintgl s = .next s ∧ exec (.pintglt off) s = .next s)

/-- R188 with R190: PACCEPT takes the request of a driver that is idle and not failed, by its kind; an
offset in the past sets `noteMissed` and flips as an immediate one. It is urgent: no TICK before it. -/
def Obligations.PacceptFollowsItsRule : Prop :=
  ∀ s : State,
    (s.failed = false → s.inflight = none → s.mailbox = some .init →
      exec .paccept s = .next
        { s with mailbox := none, pin := if s.cfg.pinIdle then .high else .low }) ∧
    (s.failed = false → s.inflight = none → s.mailbox = some .immediate →
      exec .paccept s = .next { s with mailbox := none, inflight := some 0 }) ∧
    (∀ off : BitVec 32, s.failed = false → s.inflight = none → s.mailbox = some (.timed off) →
      off.toInt < (s.cfg.minLeadTicks : Int) →
      exec .paccept s = .next { s with mailbox := none, noteMissed := true, inflight := some 0 }) ∧
    (∀ off : BitVec 32, s.failed = false → s.inflight = none → s.mailbox = some (.timed off) →
      (s.cfg.minLeadTicks : Int) ≤ off.toInt →
      exec .paccept s = .next { s with mailbox := none, inflight := some off.toInt }) ∧
    ((s.failed = true ∨ s.inflight ≠ none ∨ s.mailbox = none) →
      exec .paccept s = .refused (.notEnabled .paccept)) ∧
    (s.failed = false → s.inflight = none → s.mailbox ≠ none →
      exec .tick s = .refused (.notEnabled .tick))

/-- R192: PFLIP flips the pin within the window and only there; a flip of `undef` is `undef`. -/
def Obligations.PflipFollowsItsRule : Prop :=
  ∀ (s : State) (rem : Int),
    (s.inflight = some rem → -(s.cfg.jitterTicks : Int) ≤ rem → rem ≤ (s.cfg.jitterTicks : Int) →
      exec .pflip s = .next
        { s with
          pin := match s.pin with
            | .undef => .undef
            | .low => .high
            | .high => .low
          inflight := none }) ∧
    (s.inflight = some rem → (rem < -(s.cfg.jitterTicks : Int) ∨ (s.cfg.jitterTicks : Int) < rem) →
      exec .pflip s = .refused (.notEnabled .pflip)) ∧
    (s.inflight = none → exec .pflip s = .refused (.notEnabled .pflip))

/-- R196: TICK counts the watchdog up to its bound and the countdown down; it is disabled while PACCEPT
is enabled and at the end of the flip window. Of the ghost `now` nothing is said here. -/
def Obligations.TickFollowsItsRule : Prop :=
  ∀ (s : State) (rem : Int),
    (s.inflight = none → (s.failed = true ∨ s.mailbox = none) →
      ∃ t : State, exec .tick s = .next t ∧
        t = { s with wdog := min (s.wdog + 1) s.cfg.refTimeoutTicks, now := t.now }) ∧
    (s.inflight = some rem → -(s.cfg.jitterTicks : Int) < rem →
      ∃ t : State, exec .tick s = .next t ∧
        t = { s with
              wdog := min (s.wdog + 1) s.cfg.refTimeoutTicks
              inflight := some (rem - 1)
              now := t.now }) ∧
    (s.failed = false → s.inflight = none → s.mailbox ≠ none →
      exec .tick s = .refused (.notEnabled .tick)) ∧
    (s.inflight = some rem → rem ≤ -(s.cfg.jitterTicks : Int) →
      exec .tick s = .refused (.notEnabled .tick))

/-- R289, the time base: in every run whose environment delivers only finitely many pin requests between
two TICK steps, a TICK is taken infinitely often, whatever else the environment sends. -/
def Obligations.TimePassesInEveryPacedRun : Prop :=
  ∀ (inputs : Nat → List Event) (run : Nat → State),
    IsRun inputs run → PacedRequests inputs run → Inv (run 0) →
    ∀ n : Nat, ∃ m, n ≤ m ∧ takenAt inputs run m = some (.internal .tick)

/-- R198: PINFAULT completes in every state, ends the driver's service and reports it; after it every
request is discarded and nothing is accepted or flipped. -/
def Obligations.PinfaultFollowsItsRule : Prop :=
  ∀ s : State, ∃ t : State,
    t = { s with
          failed := true, noteHardFail := true, mailbox := none, inflight := none, pin := .undef } ∧
    exec .pinfault s = .next t ∧ exec .pinfault t = .next t ∧
    exec .pininit t = .next t ∧ exec .pintgl t = .next t ∧
    (∀ off : BitVec 32, exec (.pintglt off) t = .next t) ∧
    exec .paccept t = .refused (.notEnabled .paccept) ∧ exec .pflip t = .refused (.notEnabled .pflip)

/-! ## Rules about the whole machine -/

/-- R119: no REFEV moves `fracIndex` by more than MAX_STEP, nor, once the seed is done, by more than
one. -/
def Obligations.RefevMovesTheIndexWithinBounds : Prop :=
  ∀ (src : ClockSource) (kind : EventKind) (count : BitVec 32) (s t : State),
    Inv s → exec (.refev src kind count) s = .next t →
    ((t.fracIndex : Int) - (s.fracIndex : Int)).natAbs ≤ s.cfg.maxStep ∧
    (s.firstUpdate = false → ((t.fracIndex : Int) - (s.fracIndex : Int)).natAbs ≤ 1)

/-- R148: `lock` changes only as the rule's table says. -/
def Obligations.LockChangesOnlyAsTabulated : Prop :=
  ∀ (i : Instr) (s t : State), exec i s = .next t → t.lock ≠ s.lock →
    (i = .reset ∧ t.lock = .unlocked) ∨
    (i.mnemonic ∈ switching ∧ t.lock = .unlocked) ∨
    (∃ (kind : EventKind) (count : BitVec 32), i = .refev s.activeSource kind count ∧
      s.rateValid = true ∧ s.prevValid = true ∧ count.toNat ≠ s.prevCount ∧
      ((s.lock = .unlocked ∧ t.lock = .acquiring) ∨
       (s.lock = .acquiring ∧ t.lock = .locked ∧ s.cfg.minDwell ≤ s.dwell + 1 ∧
        (errorSample s.cfg.timerMod count.toNat s.prevCount s.adder).natAbs < s.cfg.lockThreshold) ∨
       (s.lock = .locked ∧ t.lock = .acquiring ∧ s.cfg.unlockThreshold <
        (errorSample s.cfg.timerMod count.toNat s.prevCount s.adder).natAbs)))

/-- R246: `activeSource` changes only as the rule's table says. -/
def Obligations.SourceChangesOnlyAsTabulated : Prop :=
  ∀ (i : Instr) (s t : State), exec i s = .next t → t.activeSource ≠ s.activeSource →
    (i = .reset ∧ t.activeSource = .internal) ∨
    (∃ b : ClockSource, i = .selsrc b ∧ t.activeSource = b ∧
      s.cfg.srcPresent.getLsbD (sourceCode b).toNat = true ∧
      (b = .internal ∨ s.flags.getLsbD 4 = false)) ∨
    (t.activeSource = .internal ∧
      (i = .los s.activeSource ∨ (i = .timeout ∧ timeoutEnabled s = true) ∨
       (i = .note ∧ s.noteHardFail = true)))

/-- R248 (b): whatever changes the source or the rate clears the previous sample and re-arms the loop,
in the same step. -/
def Obligations.TransitionsRestartTheLoop : Prop :=
  ∀ (i : Instr) (s t : State), exec i s = .next t →
    (t.activeSource ≠ s.activeSource ∨ t.currentRate ≠ s.currentRate ∨ t.rateValid ≠ s.rateValid) →
    t.prevValid = false ∧ t.firstUpdate = true ∧ t.integ = 0 ∧ t.lock = .unlocked ∧
    t.dwell = 0 ∧ t.wdog = 0

/-- R33, R317: a flag once set is cleared by RESET, or by a CLRFLAGS that names it, and HARD_FAIL by
RESET alone. -/
def Obligations.FlagsAreSticky : Prop :=
  ∀ (i : Instr) (s t : State) (c : Condition), exec i s = .next t →
    s.flags.getLsbD c.code = true → t.flags.getLsbD c.code = false →
    i = .reset ∨
    ∃ mask : BitVec 8, i = .clrflags mask ∧ mask.getLsbD c.code = true ∧ c ≠ .hardFail

/-- R261: each flag is set only by the steps the rule names, from the causes it names. -/
def Obligations.FlagsAreRaisedOnlyByTheirCauses : Prop :=
  ∀ (i : Instr) (s t : State) (c : Condition), exec i s = .next t →
    s.flags.getLsbD c.code = false → t.flags.getLsbD c.code = true →
    match c with
    | .unsupportedFreq =>
        ∃ freq : BitVec 32, (i = .setrate freq ∨ i = .rateirq freq) ∧ ¬ supported s.cfg freq.toNat
    | .refTimeout => i = .timeout ∧ timeoutEnabled s = true
    | .missedDeadline => i = .note ∧ s.noteMissed = true
    | .timerStall =>
        ∃ (kind : EventKind) (count : BitVec 32), i = .refev s.activeSource kind count ∧
          s.rateValid = true ∧ s.prevValid = true ∧ count.toNat = s.prevCount
    | .hardFail => i = .note ∧ s.noteHardFail = true
    | .los => i = .los s.activeSource ∧ s.activeSource ≠ .internal
    | .badCmd =>
        i.isAnswer = true ∨
        ∃ src : ClockSource, i = .selsrc src ∧
          (s.cfg.srcPresent.getLsbD (sourceCode src).toNat = false ∨
           (s.flags.getLsbD 4 = true ∧ src ≠ .internal))
    | .fallback =>
        s.activeSource ≠ .internal ∧
        (i = .timeout ∨ i = .los s.activeSource ∨ (i = .note ∧ s.noteHardFail = true))

/-- R46: no step but the listed ones writes an element. The clause for `prevCount` admits RESET too, which
leaves a free value there (log 9); the rows of the answers stand for illegal domain-1 messages. -/
def Obligations.OnlyTheListedStepsWrite : Prop :=
  ∀ (i : Instr) (s t : State), exec i s = .next t →
    (t.activeSource ≠ s.activeSource →
      i.mnemonic ∈ [Mnemonic.selsrc, .los, .timeout, .note, .reset]) ∧
    (t.currentRate ≠ s.currentRate ∨ t.rateValid ≠ s.rateValid →
      i.mnemonic ∈ [Mnemonic.setrate, .rateirq, .reset]) ∧
    (t.adder ≠ s.adder ∨ t.synthValid ≠ s.synthValid →
      i.mnemonic ∈ Mnemonic.reset :: switching) ∧
    (t.fracIndex ≠ s.fracIndex ∨ t.synthReg ≠ s.synthReg ∨ t.firstUpdate ≠ s.firstUpdate ∨
      t.prevValid ≠ s.prevValid ∨ t.integ ≠ s.integ ∨ t.lock ≠ s.lock ∨ t.dwell ≠ s.dwell →
      i.mnemonic ∈ Mnemonic.reset :: .refev :: switching) ∧
    (t.prevCount ≠ s.prevCount → i.mnemonic ∈ [Mnemonic.refev, .reset]) ∧
    (t.wdog ≠ s.wdog → i.mnemonic ∈ Mnemonic.tick :: .reset :: .refev :: switching) ∧
    (t.flags ≠ s.flags →
      i.mnemonic ∈ Mnemonic.clrflags :: .status :: .settings :: .reset :: .refev :: switching) ∧
    (t.pin ≠ s.pin → i.mnemonic ∈ [Mnemonic.paccept, .pflip, .pinfault, .reset]) ∧
    (t.mailbox ≠ s.mailbox →
      i.mnemonic ∈ [Mnemonic.pininit, .pintgl, .pintglt, .paccept, .pinfault, .reset]) ∧
    (t.inflight ≠ s.inflight →
      i.mnemonic ∈ [Mnemonic.paccept, .tick, .pflip, .pinfault, .reset]) ∧
    (t.failed ≠ s.failed → i.mnemonic ∈ [Mnemonic.pinfault, .reset]) ∧
    (t.noteMissed ≠ s.noteMissed → i.mnemonic ∈ [Mnemonic.paccept, .note, .reset]) ∧
    (t.noteHardFail ≠ s.noteHardFail → i.mnemonic ∈ [Mnemonic.pinfault, .note, .reset])

/-- R320: answers come only to GETSTATUS and SYNGET, one word each; every other message and internal step
leaves what was answered as it is. That RESET does so too is the model's choice (log 18, log 5): R320 speaks
of messages only. -/
def Obligations.AnswersGoOnlyToTheTwoReads : Prop :=
  ∀ (i : Instr) (s t : State), exec i s = .next t →
    (i.mnemonic ∈ [Mnemonic.getstatus, .synget] → ∃ w : Word, t = { s with outbox := s.outbox ++ [w] }) ∧
    (i.mnemonic ∉ [Mnemonic.getstatus, .synget] → t.outbox = s.outbox)

/-- R69, R200 (c), (e): no step of the control-loop domain touches the pin, the mailbox, the committed
flip or the failure. -/
def Obligations.LoopNeverTouchesThePinDriver : Prop :=
  ∀ (i : Instr) (s t : State), i.mnemonic ∈ loopSide → exec i s = .next t →
    t.pin = s.pin ∧ t.mailbox = s.mailbox ∧ t.inflight = s.inflight ∧ t.failed = s.failed

/-- R266: after a hard failure is recorded, every run without RESET stays on Internal with the flag
set. -/
def Obligations.HardFailureLastsUntilReset : Prop :=
  ∀ (is : List Instr) (s t : State), Inv s → s.flags.getLsbD 4 = true → Instr.reset ∉ is →
    runInstrs is s = .next t → t.flags.getLsbD 4 = true ∧ t.activeSource = .internal

/-- R198, R275: a failed driver stays failed and idle with the pin undefined in every run without RESET,
and accepts and flips nothing. -/
def Obligations.FailedDriverStaysFailed : Prop :=
  ∀ (is : List Instr) (s t : State), Inv s → s.failed = true → Instr.reset ∉ is →
    runInstrs is s = .next t →
    t.failed = true ∧ t.pin = .undef ∧
    exec .paccept t = .refused (.notEnabled .paccept) ∧ exec .pflip t = .refused (.notEnabled .pflip)

/-- R286, R194: what the pin driver does depends on nothing of the control loop: two states that agree
on the pin side take the same pin-side steps and agree on it after every step. -/
def Obligations.PinDriverIgnoresTheLoop : Prop :=
  ∀ (i : Instr) (s t : State), pinView s = pinView t →
    (i.mnemonic ∈ pinSide → ∀ s' : State, exec i s = .next s' → ∃ t' : State, exec i t = .next t') ∧
    (∀ s' t' : State, exec i s = .next s' → exec i t = .next t' → pinView s' = pinView t')

/-- U11, U12, R44: no step consults `prevCount` while `prevValid = 0` or `synthReg` while
`synthValid = 0`: states that differ only there step alike. -/
def Obligations.UnspecifiedValuesAreNotConsulted : Prop :=
  ∀ s t : State, hideUnspecified s = hideUnspecified t → sameSeen (step s) (step t)

/-- R194: after PACCEPT at tick `T`, whatever else happens, the flip comes within the window around the
nominal instant, and every instant of the window is possible. -/
def Obligations.FlipsStayInTheirWindow : Prop :=
  ∀ (s t : State) (r : PinRequest), s.mailbox = some r → r ≠ .init → exec .paccept s = .next t →
    (∀ (is : List Instr) (u v : State),
      Instr.pflip ∉ is → Instr.pinfault ∉ is → Instr.reset ∉ is →
      runInstrs is t = .next u → exec .pflip u = .next v →
      s.now ≤ v.now ∧
      (s.now : Int) + nominalDelay s.cfg r - (s.cfg.jitterTicks : Int) ≤ (v.now : Int) ∧
      (v.now : Int) ≤ (s.now : Int) + nominalDelay s.cfg r + (s.cfg.jitterTicks : Int)) ∧
    (∀ n : Nat, s.now ≤ n →
      (s.now : Int) + nominalDelay s.cfg r - (s.cfg.jitterTicks : Int) ≤ (n : Int) →
      (n : Int) ≤ (s.now : Int) + nominalDelay s.cfg r + (s.cfg.jitterTicks : Int) →
      ∃ u v : State, runInstrs (List.replicate (n - s.now) .tick) t = .next u ∧
        exec .pflip u = .next v ∧ v.now = n)

/-- R148: from a fresh switch sequence, with every error sample under LOCK_THRESHOLD, `lock` is UNLOCKED
after the first forwarded event, ACQUIRING after the second, and LOCKED from event MIN_DWELL + 2 on. -/
def Obligations.QuietEventsReachLocked : Prop :=
  ∀ (s : State) (kind : EventKind) (counts : List (BitVec 32)),
    s.cfg.Valid → s.rateValid = true → s.prevValid = false → s.lock = .unlocked →
    quietCounts s.cfg s.adder counts →
    ∃ t : State, runInstrs (counts.map (fun c => .refev s.activeSource kind c)) s = .next t ∧
      (counts.length ≤ 1 → t.lock = .unlocked) ∧
      (2 ≤ counts.length → counts.length < s.cfg.minDwell + 2 → t.lock = .acquiring) ∧
      (s.cfg.minDwell + 2 ≤ counts.length → t.lock = .locked)

/-- R248 (c), R313: from an unprimed state no run with fewer than MIN_DWELL + 2 reference events ends
LOCKED, whatever the events and whatever else it takes. -/
def Obligations.NoLockBeforeTheDwell : Prop :=
  ∀ (is : List Instr) (s t : State), Inv s → s.prevValid = false → runInstrs is s = .next t →
    eventCount is < s.cfg.minDwell + 2 → t.lock ≠ .locked
end

