-- ==== Sys2Proof/Laws/Encoding.lean ====
section
/-! SUPPORT. The fields of a word built from its fields, and the codes of the enumerations. -/

namespace Sys2Proof

open Sys2Proof.Machine

@[simp] theorem opcField_mkWord (opc : BitVec 8) (aux : BitVec 24) (opr : BitVec 32) :
    opcField (mkWord opc aux opr) = opc := by
  apply BitVec.eq_of_getLsbD_eq
  intro i hi
  have h1 : ¬ (56 + i < 32) := by omega
  have h2 : ¬ (56 + i - 32 < 24) := by omega
  have h3 : 56 + i - 32 - 24 = i := by omega
  simp only [opcField, mkWord, BitVec.getLsbD_extractLsb', BitVec.getLsbD_append, h1, h2, h3, hi,
    decide_true, Bool.true_and, if_false]

@[simp] theorem auxField_mkWord (opc : BitVec 8) (aux : BitVec 24) (opr : BitVec 32) :
    auxField (mkWord opc aux opr) = aux := by
  apply BitVec.eq_of_getLsbD_eq
  intro i hi
  have h1 : ¬ (32 + i < 32) := by omega
  have h2 : 32 + i - 32 = i := by omega
  simp only [auxField, mkWord, BitVec.getLsbD_extractLsb', BitVec.getLsbD_append, h1, h2, hi,
    decide_true, Bool.true_and, if_false, if_true]

@[simp] theorem oprField_mkWord (opc : BitVec 8) (aux : BitVec 24) (opr : BitVec 32) :
    oprField (mkWord opc aux opr) = opr := by
  apply BitVec.eq_of_getLsbD_eq
  intro i hi
  simp only [oprField, mkWord, BitVec.getLsbD_extractLsb', BitVec.getLsbD_append, Nat.zero_add, hi,
    decide_true, Bool.true_and, if_true]

/-- A word is the concatenation of its three fields (R81). -/
theorem mkWord_fields (w : Word) : mkWord (opcField w) (auxField w) (oprField w) = w := by
  apply BitVec.eq_of_getLsbD_eq
  intro i hi
  simp only [mkWord, opcField, auxField, oprField, BitVec.getLsbD_append, BitVec.getLsbD_extractLsb']
  by_cases h1 : i < 32
  · simp only [h1, decide_true, Bool.true_and, if_true, Nat.zero_add]
  · by_cases h2 : i - 32 < 24
    · have h3 : 32 + (i - 32) = i := by omega
      simp only [h1, h2, h3, decide_true, Bool.true_and, if_true, if_false]
    · have h3 : 56 + (i - 32 - 24) = i := by omega
      have h4 : i - 32 - 24 < 8 := by omega
      simp only [h1, h2, h3, h4, decide_true, Bool.true_and, if_false]

/-- The port is the upper half of the opcode byte (R84). -/
theorem portField_mkWord (opc : BitVec 8) (aux : BitVec 24) (opr : BitVec 32) :
    portField (mkWord opc aux opr) = opc.extractLsb' 4 4 := by
  apply BitVec.eq_of_getLsbD_eq
  intro i hi
  have h1 : ¬ (60 + i < 32) := by omega
  have h2 : ¬ (60 + i - 32 < 24) := by omega
  have h3 : 60 + i - 32 - 24 = 4 + i := by omega
  simp only [portField, mkWord, BitVec.getLsbD_extractLsb', BitVec.getLsbD_append, h1, h2, h3, hi,
    decide_true, Bool.true_and, if_false]

@[simp] theorem opcodeOf_code (op : Opcode) : opcodeOf op.code = some op := by
  cases op <;> decide

/-- An assigned opcode byte is the byte of its operation. -/
theorem code_of_opcodeOf {b : BitVec 8} {op : Opcode} (h : opcodeOf b = some op) : op.code = b := by
  have := List.find?_some h
  simpa using this

@[simp] theorem sourceOfCode_sourceCode (src : ClockSource) : sourceOfCode (sourceCode src) = src := by
  cases src <;> decide

@[simp] theorem sourceCode_sourceOfCode (c : BitVec 2) : sourceCode (sourceOfCode c) = c := by
  revert c; decide

@[simp] theorem kindOfCode_kindCode (kind : EventKind) : kindOfCode (kindCode kind) = kind := by
  cases kind <;> decide

@[simp] theorem kindCode_kindOfCode (c : BitVec 1) : kindCode (kindOfCode c) = c := by
  revert c; decide

/-- Each event form's source and kind read back (R82 format E). -/
theorem fields_auxOfEvent (src : ClockSource) (kind : EventKind) :
    srcField (auxOfEvent src kind) = src ∧ kindField (auxOfEvent src kind) = kind ∧
      (auxOfEvent src kind).extractLsb' 3 21 = 0#21 := by
  cases src <;> cases kind <;> decide

/-- Each source form's source reads back (R82 format S). -/
theorem fields_auxOfSource (src : ClockSource) :
    srcField (auxOfSource src) = src ∧ (auxOfSource src).extractLsb' 2 22 = 0#22 := by
  cases src <;> decide

/-- Bit by bit, `OPR` of format K. -/
theorem getLsbD_oprOfMask (mask : BitVec 8) (i : Nat) :
    (oprOfMask mask).getLsbD i = if i < 8 then mask.getLsbD i else false := by
  simp only [oprOfMask, BitVec.getLsbD_append, BitVec.getLsbD_zero]

/-- The mask of format K reads back, and its reserved bits are zero. -/
theorem fields_oprOfMask (mask : BitVec 8) :
    (oprOfMask mask).extractLsb' 0 8 = mask ∧ (oprOfMask mask).extractLsb' 8 24 = 0#24 := by
  constructor <;> apply BitVec.eq_of_getLsbD_eq <;> intro i hi <;>
    simp only [BitVec.getLsbD_extractLsb', getLsbD_oprOfMask, hi, decide_true, Bool.true_and,
      Nat.zero_add, if_true, BitVec.getLsbD_zero]
  rw [if_neg (by omega)]

/-- An `OPR` with zero reserved bits is that of its mask. -/
theorem oprOfMask_fields (opr : BitVec 32) (h : opr.extractLsb' 8 24 = 0#24) :
    oprOfMask (opr.extractLsb' 0 8) = opr := by
  apply BitVec.eq_of_getLsbD_eq
  intro i hi
  rw [getLsbD_oprOfMask]
  split
  · simp only [BitVec.getLsbD_extractLsb', Nat.zero_add, decide_true, Bool.true_and, *]
  · have hb := congrArg (fun v => v.getLsbD (i - 8)) h
    simp only [BitVec.getLsbD_extractLsb', BitVec.getLsbD_zero] at hb
    rw [show 8 + (i - 8) = i by omega, decide_eq_true (by omega : i - 8 < 24), Bool.true_and] at hb
    exact hb.symm

/-- Bit by bit, `AUX` of format S. -/
theorem getLsbD_auxOfSource (src : ClockSource) (i : Nat) :
    (auxOfSource src).getLsbD i = if i < 2 then (sourceCode src).getLsbD i else false := by
  simp only [auxOfSource, BitVec.getLsbD_append, BitVec.getLsbD_zero]

/-- An `AUX` of format S with zero reserved bits is that of its source. -/
theorem auxOfSource_fields (aux : BitVec 24) (h : aux.extractLsb' 2 22 = 0#22) :
    auxOfSource (srcField aux) = aux := by
  apply BitVec.eq_of_getLsbD_eq
  intro i hi
  rw [getLsbD_auxOfSource, srcField, sourceCode_sourceOfCode]
  split
  · simp only [BitVec.getLsbD_extractLsb', Nat.zero_add, decide_true, Bool.true_and, *]
  · have hb := congrArg (fun v => v.getLsbD (i - 2)) h
    simp only [BitVec.getLsbD_extractLsb', BitVec.getLsbD_zero] at hb
    rw [show 2 + (i - 2) = i by omega, decide_eq_true (by omega : i - 2 < 22), Bool.true_and] at hb
    exact hb.symm

/-- Bit by bit, `AUX` of format E. -/
theorem getLsbD_auxOfEvent (src : ClockSource) (kind : EventKind) (i : Nat) :
    (auxOfEvent src kind).getLsbD i =
      if i < 2 then (sourceCode src).getLsbD i
      else if i - 2 < 1 then (kindCode kind).getLsbD (i - 2) else false := by
  simp only [auxOfEvent, BitVec.getLsbD_append, BitVec.getLsbD_zero]

/-- An `AUX` of format E with zero reserved bits is that of its source and kind. -/
theorem auxOfEvent_fields (aux : BitVec 24) (h : aux.extractLsb' 3 21 = 0#21) :
    auxOfEvent (srcField aux) (kindField aux) = aux := by
  apply BitVec.eq_of_getLsbD_eq
  intro i hi
  rw [getLsbD_auxOfEvent, srcField, kindField, sourceCode_sourceOfCode, kindCode_kindOfCode]
  split
  · simp only [BitVec.getLsbD_extractLsb', Nat.zero_add, decide_true, Bool.true_and, *]
  · split
    · rw [BitVec.getLsbD_extractLsb', decide_eq_true (by omega : i - 2 < 1), Bool.true_and,
        show 2 + (i - 2) = i by omega]
    · have hb := congrArg (fun v => v.getLsbD (i - 3)) h
      simp only [BitVec.getLsbD_extractLsb', BitVec.getLsbD_zero] at hb
      rw [show 3 + (i - 3) = i by omega, decide_eq_true (by omega : i - 3 < 21), Bool.true_and] at hb
      exact hb.symm

/-- Bit by bit, `AUX` of the STATUS word. -/
theorem getLsbD_auxOfStatus (src : ClockSource) (lock : BitVec 2) (rateValid : Bool) (flags : BitVec 8)
    (i : Nat) :
    (auxOfStatus src lock rateValid flags).getLsbD i =
      if i < 2 then (sourceCode src).getLsbD i
      else if i - 2 < 2 then lock.getLsbD (i - 2)
      else if i - 2 - 2 < 1 then (BitVec.ofBool rateValid).getLsbD (i - 2 - 2)
      else if i - 2 - 2 - 1 < 3 then false
      else if i - 2 - 2 - 1 - 3 < 8 then flags.getLsbD (i - 2 - 2 - 1 - 3) else false := by
  simp only [auxOfStatus, BitVec.getLsbD_append, BitVec.getLsbD_zero]

/-- The fields of the STATUS word read back, and its reserved bits are zero (R92). -/
theorem fields_auxOfStatus (src : ClockSource) (lock : BitVec 2) (rateValid : Bool)
    (flags : BitVec 8) :
    srcField (auxOfStatus src lock rateValid flags) = src ∧
    (auxOfStatus src lock rateValid flags).extractLsb' 2 2 = lock ∧
    (auxOfStatus src lock rateValid flags).getLsbD 4 = rateValid ∧
    (auxOfStatus src lock rateValid flags).extractLsb' 5 3 = 0#3 ∧
    (auxOfStatus src lock rateValid flags).extractLsb' 8 8 = flags ∧
    (auxOfStatus src lock rateValid flags).extractLsb' 16 8 = 0#8 := by
  refine ⟨?_, ?_, ?_, ?_, ?_, ?_⟩
  · rw [srcField]
    conv_rhs => rw [← sourceOfCode_sourceCode src]
    congr 1
    apply BitVec.eq_of_getLsbD_eq
    intro i hi
    rw [BitVec.getLsbD_extractLsb', getLsbD_auxOfStatus, if_pos (by omega)]
    simp only [hi, decide_true, Bool.true_and, Nat.zero_add]
  · apply BitVec.eq_of_getLsbD_eq
    intro i hi
    rw [BitVec.getLsbD_extractLsb', getLsbD_auxOfStatus, if_neg (by omega), if_pos (by omega),
      show 2 + i - 2 = i by omega]
    simp only [hi, decide_true, Bool.true_and]
  · rw [getLsbD_auxOfStatus]; cases rateValid <;> rfl
  · apply BitVec.eq_of_getLsbD_eq
    intro i hi
    rw [BitVec.getLsbD_extractLsb', getLsbD_auxOfStatus, if_neg (by omega), if_neg (by omega),
      if_neg (by omega), if_pos (by omega), Bool.and_false, BitVec.getLsbD_zero]
  · apply BitVec.eq_of_getLsbD_eq
    intro i hi
    rw [BitVec.getLsbD_extractLsb', getLsbD_auxOfStatus, if_neg (by omega), if_neg (by omega),
      if_neg (by omega), if_neg (by omega), if_pos (by omega),
      show 8 + i - 2 - 2 - 1 - 3 = i by omega]
    simp only [hi, decide_true, Bool.true_and]
  · apply BitVec.eq_of_getLsbD_eq
    intro i hi
    rw [BitVec.getLsbD_extractLsb', getLsbD_auxOfStatus, if_neg (by omega), if_neg (by omega),
      if_neg (by omega), if_neg (by omega), if_neg (by omega), Bool.and_false, BitVec.getLsbD_zero]

/-- A STATUS `AUX` with zero reserved bits is that of its fields. -/
theorem auxOfStatus_fields (aux : BitVec 24) (h5 : aux.extractLsb' 5 3 = 0#3)
    (h16 : aux.extractLsb' 16 8 = 0#8) :
    auxOfStatus (srcField aux) (aux.extractLsb' 2 2) (aux.getLsbD 4) (aux.extractLsb' 8 8) = aux := by
  apply BitVec.eq_of_getLsbD_eq
  intro i hi
  rw [getLsbD_auxOfStatus, srcField, sourceCode_sourceOfCode]
  split
  · simp only [BitVec.getLsbD_extractLsb', Nat.zero_add, decide_true, Bool.true_and, *]
  split
  · rw [BitVec.getLsbD_extractLsb', decide_eq_true (by omega : i - 2 < 2), Bool.true_and,
      show 2 + (i - 2) = i by omega]
  split
  · have : i = 4 := by omega
    subst this
    cases aux.getLsbD 4 <;> rfl
  split
  · have hb := congrArg (fun v => v.getLsbD (i - 5)) h5
    simp only [BitVec.getLsbD_extractLsb', BitVec.getLsbD_zero] at hb
    rw [show 5 + (i - 5) = i by omega, decide_eq_true (by omega : i - 5 < 3), Bool.true_and] at hb
    exact hb.symm
  split
  · rw [BitVec.getLsbD_extractLsb', decide_eq_true (by omega : i - 2 - 2 - 1 - 3 < 8), Bool.true_and,
      show 8 + (i - 2 - 2 - 1 - 3) = i by omega]
  · have hb := congrArg (fun v => v.getLsbD (i - 16)) h16
    simp only [BitVec.getLsbD_extractLsb', BitVec.getLsbD_zero] at hb
    rw [show 16 + (i - 16) = i by omega, decide_eq_true (by omega : i - 16 < 8), Bool.true_and] at hb
    exact hb.symm

/-- Bit by bit, `AUX` of the SETTINGS word. -/
theorem getLsbD_auxOfSettings (fracIndex : BitVec 16) (firstUpdate unsup : Bool) (i : Nat) :
    (auxOfSettings fracIndex firstUpdate unsup).getLsbD i =
      if i < 16 then fracIndex.getLsbD i
      else if i - 16 < 1 then (BitVec.ofBool firstUpdate).getLsbD (i - 16)
      else if i - 16 - 1 < 1 then (BitVec.ofBool unsup).getLsbD (i - 16 - 1) else false := by
  simp only [auxOfSettings, BitVec.getLsbD_append, BitVec.getLsbD_zero]

/-- The fields of the SETTINGS word read back, and its reserved bits are zero (R93). -/
theorem fields_auxOfSettings (fracIndex : BitVec 16) (firstUpdate unsup : Bool) :
    (auxOfSettings fracIndex firstUpdate unsup).extractLsb' 0 16 = fracIndex ∧
    (auxOfSettings fracIndex firstUpdate unsup).getLsbD 16 = firstUpdate ∧
    (auxOfSettings fracIndex firstUpdate unsup).getLsbD 17 = unsup ∧
    (auxOfSettings fracIndex firstUpdate unsup).extractLsb' 18 6 = 0#6 := by
  refine ⟨?_, ?_, ?_, ?_⟩
  · apply BitVec.eq_of_getLsbD_eq
    intro i hi
    rw [BitVec.getLsbD_extractLsb', getLsbD_auxOfSettings, if_pos (by omega)]
    simp only [hi, decide_true, Bool.true_and, Nat.zero_add]
  · rw [getLsbD_auxOfSettings]; cases firstUpdate <;> rfl
  · rw [getLsbD_auxOfSettings]; cases unsup <;> rfl
  · apply BitVec.eq_of_getLsbD_eq
    intro i hi
    rw [BitVec.getLsbD_extractLsb', getLsbD_auxOfSettings, if_neg (by omega), if_neg (by omega),
      if_neg (by omega), Bool.and_false, BitVec.getLsbD_zero]

/-- A SETTINGS `AUX` with zero reserved bits is that of its fields. -/
theorem auxOfSettings_fields (aux : BitVec 24) (h : aux.extractLsb' 18 6 = 0#6) :
    auxOfSettings (aux.extractLsb' 0 16) (aux.getLsbD 16) (aux.getLsbD 17) = aux := by
  apply BitVec.eq_of_getLsbD_eq
  intro i hi
  rw [getLsbD_auxOfSettings]
  split
  · simp only [BitVec.getLsbD_extractLsb', Nat.zero_add, decide_true, Bool.true_and, *]
  split
  · have : i = 16 := by omega
    subst this
    cases aux.getLsbD 16 <;> rfl
  split
  · have : i = 17 := by omega
    subst this
    cases aux.getLsbD 17 <;> rfl
  · have hb := congrArg (fun v => v.getLsbD (i - 18)) h
    simp only [BitVec.getLsbD_extractLsb', BitVec.getLsbD_zero] at hb
    rw [show 18 + (i - 18) = i by omega, decide_eq_true (by omega : i - 18 < 6), Bool.true_and] at hb
    exact hb.symm

/-- Decoding a word of a known opcode: the reserved bits, then the operands (R102). -/
theorem decode_mkWord (timerMod : Nat) (op : Opcode) (aux : BitVec 24) (opr : BitVec 32) :
    decode timerMod (mkWord op.code aux opr) =
      if reservedZero op.format aux opr then assemble timerMod op aux opr
      else .error .reservedBits := by
  simp only [decode, opcField_mkWord, auxField_mkWord, oprField_mkWord, opcodeOf_code]

/-- An accepted word has a known opcode, zero reserved bits and operands in range (R102). -/
theorem decode_ok_cases {timerMod : Nat} {w : Word} {i : Instr} (h : decode timerMod w = .ok i) :
    ∃ op : Opcode, op.code = opcField w ∧ reservedZero op.format (auxField w) (oprField w) = true ∧
      assemble timerMod op (auxField w) (oprField w) = .ok i := by
  unfold decode at h
  split at h
  · cases h
  · rename_i op ho
    split at h
    · rename_i hr; exact ⟨op, code_of_opcodeOf ho, hr, h⟩
    · cases h

/-- The count of a decoded REFEV is below TIMER_MOD (R85). -/
theorem count_lt_of_decode {timerMod : Nat} {w : Word} {src : ClockSource} {kind : EventKind}
    {count : BitVec 32} (h : decode timerMod w = .ok (.refev src kind count)) : count.toNat < timerMod := by
  obtain ⟨op, -, -, ha⟩ := decode_ok_cases h
  cases op <;> simp only [assemble, Except.ok.injEq, reduceCtorEq] at ha
  split at ha <;> cases ha
  assumption

/-- No word decodes to an internal step or to RESET (R94). -/
theorem opcodeOfInstr_of_decode {timerMod : Nat} {w : Word} {i : Instr} (h : decode timerMod w = .ok i) :
    (opcodeOfInstr i).isSome = true := by
  obtain ⟨op, -, -, ha⟩ := decode_ok_cases h
  cases op <;> simp only [assemble] at ha
  case refev => split at ha <;> cases ha; rfl
  all_goals cases ha; rfl

end Sys2Proof
end

