-- ==== Sys2Proof/Laws/State.lean ====
section
/-! SUPPORT. Each field after each shared update of the state. -/

namespace Sys2Proof.Machine

/-! ## raise -/

@[simp] theorem raise_cfg (c : Condition) (s : State) : (raise c s).cfg = s.cfg := rfl
@[simp] theorem raise_activeSource (c : Condition) (s : State) :
    (raise c s).activeSource = s.activeSource := rfl
@[simp] theorem raise_currentRate (c : Condition) (s : State) : (raise c s).currentRate = s.currentRate := rfl
@[simp] theorem raise_rateValid (c : Condition) (s : State) : (raise c s).rateValid = s.rateValid := rfl
@[simp] theorem raise_adder (c : Condition) (s : State) : (raise c s).adder = s.adder := rfl
@[simp] theorem raise_fracIndex (c : Condition) (s : State) : (raise c s).fracIndex = s.fracIndex := rfl
@[simp] theorem raise_firstUpdate (c : Condition) (s : State) : (raise c s).firstUpdate = s.firstUpdate := rfl
@[simp] theorem raise_prevCount (c : Condition) (s : State) : (raise c s).prevCount = s.prevCount := rfl
@[simp] theorem raise_prevValid (c : Condition) (s : State) : (raise c s).prevValid = s.prevValid := rfl
@[simp] theorem raise_integ (c : Condition) (s : State) : (raise c s).integ = s.integ := rfl
@[simp] theorem raise_lock (c : Condition) (s : State) : (raise c s).lock = s.lock := rfl
@[simp] theorem raise_dwell (c : Condition) (s : State) : (raise c s).dwell = s.dwell := rfl
@[simp] theorem raise_wdog (c : Condition) (s : State) : (raise c s).wdog = s.wdog := rfl
@[simp] theorem raise_flags (c : Condition) (s : State) : (raise c s).flags = setFlag s.flags c := rfl
@[simp] theorem raise_synthReg (c : Condition) (s : State) : (raise c s).synthReg = s.synthReg := rfl
@[simp] theorem raise_synthValid (c : Condition) (s : State) : (raise c s).synthValid = s.synthValid := rfl
@[simp] theorem raise_pin (c : Condition) (s : State) : (raise c s).pin = s.pin := rfl
@[simp] theorem raise_mailbox (c : Condition) (s : State) : (raise c s).mailbox = s.mailbox := rfl
@[simp] theorem raise_inflight (c : Condition) (s : State) : (raise c s).inflight = s.inflight := rfl
@[simp] theorem raise_failed (c : Condition) (s : State) : (raise c s).failed = s.failed := rfl
@[simp] theorem raise_noteMissed (c : Condition) (s : State) : (raise c s).noteMissed = s.noteMissed := rfl
@[simp] theorem raise_noteHardFail (c : Condition) (s : State) :
    (raise c s).noteHardFail = s.noteHardFail := rfl
@[simp] theorem raise_schedule (c : Condition) (s : State) : (raise c s).schedule = s.schedule := rfl
@[simp] theorem raise_owed (c : Condition) (s : State) : (raise c s).owed = s.owed := rfl
@[simp] theorem raise_patience (c : Condition) (s : State) : (raise c s).patience = s.patience := rfl
@[simp] theorem raise_outbox (c : Condition) (s : State) : (raise c s).outbox = s.outbox := rfl
@[simp] theorem raise_freeCount (c : Condition) (s : State) : (raise c s).freeCount = s.freeCount := rfl
@[simp] theorem raise_now (c : Condition) (s : State) : (raise c s).now = s.now := rfl

/-! ## respond -/

@[simp] theorem respond_cfg (w : Word) (s : State) : (respond w s).cfg = s.cfg := rfl
@[simp] theorem respond_activeSource (w : Word) (s : State) :
    (respond w s).activeSource = s.activeSource := rfl
@[simp] theorem respond_currentRate (w : Word) (s : State) : (respond w s).currentRate = s.currentRate := rfl
@[simp] theorem respond_rateValid (w : Word) (s : State) : (respond w s).rateValid = s.rateValid := rfl
@[simp] theorem respond_adder (w : Word) (s : State) : (respond w s).adder = s.adder := rfl
@[simp] theorem respond_fracIndex (w : Word) (s : State) : (respond w s).fracIndex = s.fracIndex := rfl
@[simp] theorem respond_firstUpdate (w : Word) (s : State) : (respond w s).firstUpdate = s.firstUpdate := rfl
@[simp] theorem respond_prevCount (w : Word) (s : State) : (respond w s).prevCount = s.prevCount := rfl
@[simp] theorem respond_prevValid (w : Word) (s : State) : (respond w s).prevValid = s.prevValid := rfl
@[simp] theorem respond_integ (w : Word) (s : State) : (respond w s).integ = s.integ := rfl
@[simp] theorem respond_lock (w : Word) (s : State) : (respond w s).lock = s.lock := rfl
@[simp] theorem respond_dwell (w : Word) (s : State) : (respond w s).dwell = s.dwell := rfl
@[simp] theorem respond_wdog (w : Word) (s : State) : (respond w s).wdog = s.wdog := rfl
@[simp] theorem respond_flags (w : Word) (s : State) : (respond w s).flags = s.flags := rfl
@[simp] theorem respond_synthReg (w : Word) (s : State) : (respond w s).synthReg = s.synthReg := rfl
@[simp] theorem respond_synthValid (w : Word) (s : State) : (respond w s).synthValid = s.synthValid := rfl
@[simp] theorem respond_pin (w : Word) (s : State) : (respond w s).pin = s.pin := rfl
@[simp] theorem respond_mailbox (w : Word) (s : State) : (respond w s).mailbox = s.mailbox := rfl
@[simp] theorem respond_inflight (w : Word) (s : State) : (respond w s).inflight = s.inflight := rfl
@[simp] theorem respond_failed (w : Word) (s : State) : (respond w s).failed = s.failed := rfl
@[simp] theorem respond_noteMissed (w : Word) (s : State) : (respond w s).noteMissed = s.noteMissed := rfl
@[simp] theorem respond_noteHardFail (w : Word) (s : State) :
    (respond w s).noteHardFail = s.noteHardFail := rfl
@[simp] theorem respond_schedule (w : Word) (s : State) : (respond w s).schedule = s.schedule := rfl
@[simp] theorem respond_owed (w : Word) (s : State) : (respond w s).owed = s.owed := rfl
@[simp] theorem respond_patience (w : Word) (s : State) : (respond w s).patience = s.patience := rfl
@[simp] theorem respond_outbox (w : Word) (s : State) : (respond w s).outbox = s.outbox ++ [w] := rfl
@[simp] theorem respond_freeCount (w : Word) (s : State) : (respond w s).freeCount = s.freeCount := rfl
@[simp] theorem respond_now (w : Word) (s : State) : (respond w s).now = s.now := rfl

/-! ## resetPll -/

@[simp] theorem resetPll_cfg (s : State) : (resetPll s).cfg = s.cfg := rfl
@[simp] theorem resetPll_activeSource (s : State) : (resetPll s).activeSource = s.activeSource := rfl
@[simp] theorem resetPll_currentRate (s : State) : (resetPll s).currentRate = s.currentRate := rfl
@[simp] theorem resetPll_rateValid (s : State) : (resetPll s).rateValid = s.rateValid := rfl
@[simp] theorem resetPll_adder (s : State) : (resetPll s).adder = s.adder := rfl
@[simp] theorem resetPll_fracIndex (s : State) : (resetPll s).fracIndex = s.fracIndex := rfl
@[simp] theorem resetPll_firstUpdate (s : State) : (resetPll s).firstUpdate = s.firstUpdate := rfl
@[simp] theorem resetPll_prevCount (s : State) : (resetPll s).prevCount = s.prevCount := rfl
@[simp] theorem resetPll_prevValid (s : State) : (resetPll s).prevValid = false := rfl
@[simp] theorem resetPll_integ (s : State) : (resetPll s).integ = 0 := rfl
@[simp] theorem resetPll_lock (s : State) : (resetPll s).lock = .unlocked := rfl
@[simp] theorem resetPll_dwell (s : State) : (resetPll s).dwell = 0 := rfl
@[simp] theorem resetPll_wdog (s : State) : (resetPll s).wdog = 0 := rfl
@[simp] theorem resetPll_flags (s : State) : (resetPll s).flags = s.flags := rfl
@[simp] theorem resetPll_synthReg (s : State) : (resetPll s).synthReg = s.synthReg := rfl
@[simp] theorem resetPll_synthValid (s : State) : (resetPll s).synthValid = s.synthValid := rfl
@[simp] theorem resetPll_pin (s : State) : (resetPll s).pin = s.pin := rfl
@[simp] theorem resetPll_mailbox (s : State) : (resetPll s).mailbox = s.mailbox := rfl
@[simp] theorem resetPll_inflight (s : State) : (resetPll s).inflight = s.inflight := rfl
@[simp] theorem resetPll_failed (s : State) : (resetPll s).failed = s.failed := rfl
@[simp] theorem resetPll_noteMissed (s : State) : (resetPll s).noteMissed = s.noteMissed := rfl
@[simp] theorem resetPll_noteHardFail (s : State) : (resetPll s).noteHardFail = s.noteHardFail := rfl
@[simp] theorem resetPll_schedule (s : State) : (resetPll s).schedule = s.schedule := rfl
@[simp] theorem resetPll_owed (s : State) : (resetPll s).owed = s.owed := rfl
@[simp] theorem resetPll_patience (s : State) : (resetPll s).patience = s.patience := rfl
@[simp] theorem resetPll_outbox (s : State) : (resetPll s).outbox = s.outbox := rfl
@[simp] theorem resetPll_freeCount (s : State) : (resetPll s).freeCount = s.freeCount := rfl
@[simp] theorem resetPll_now (s : State) : (resetPll s).now = s.now := rfl

/-! ## prime -/

@[simp] theorem prime_cfg (n : Nat) (s : State) : (prime n s).cfg = s.cfg := rfl
@[simp] theorem prime_activeSource (n : Nat) (s : State) : (prime n s).activeSource = s.activeSource := rfl
@[simp] theorem prime_currentRate (n : Nat) (s : State) : (prime n s).currentRate = s.currentRate := rfl
@[simp] theorem prime_rateValid (n : Nat) (s : State) : (prime n s).rateValid = s.rateValid := rfl
@[simp] theorem prime_adder (n : Nat) (s : State) : (prime n s).adder = s.adder := rfl
@[simp] theorem prime_fracIndex (n : Nat) (s : State) : (prime n s).fracIndex = s.fracIndex := rfl
@[simp] theorem prime_firstUpdate (n : Nat) (s : State) : (prime n s).firstUpdate = s.firstUpdate := rfl
@[simp] theorem prime_prevCount (n : Nat) (s : State) : (prime n s).prevCount = n := rfl
@[simp] theorem prime_prevValid (n : Nat) (s : State) : (prime n s).prevValid = true := rfl
@[simp] theorem prime_integ (n : Nat) (s : State) : (prime n s).integ = s.integ := rfl
@[simp] theorem prime_lock (n : Nat) (s : State) : (prime n s).lock = s.lock := rfl
@[simp] theorem prime_dwell (n : Nat) (s : State) : (prime n s).dwell = s.dwell := rfl
@[simp] theorem prime_wdog (n : Nat) (s : State) : (prime n s).wdog = s.wdog := rfl
@[simp] theorem prime_flags (n : Nat) (s : State) : (prime n s).flags = s.flags := rfl
@[simp] theorem prime_synthReg (n : Nat) (s : State) : (prime n s).synthReg = s.synthReg := rfl
@[simp] theorem prime_synthValid (n : Nat) (s : State) : (prime n s).synthValid = s.synthValid := rfl
@[simp] theorem prime_pin (n : Nat) (s : State) : (prime n s).pin = s.pin := rfl
@[simp] theorem prime_mailbox (n : Nat) (s : State) : (prime n s).mailbox = s.mailbox := rfl
@[simp] theorem prime_inflight (n : Nat) (s : State) : (prime n s).inflight = s.inflight := rfl
@[simp] theorem prime_failed (n : Nat) (s : State) : (prime n s).failed = s.failed := rfl
@[simp] theorem prime_noteMissed (n : Nat) (s : State) : (prime n s).noteMissed = s.noteMissed := rfl
@[simp] theorem prime_noteHardFail (n : Nat) (s : State) : (prime n s).noteHardFail = s.noteHardFail := rfl
@[simp] theorem prime_schedule (n : Nat) (s : State) : (prime n s).schedule = s.schedule := rfl
@[simp] theorem prime_owed (n : Nat) (s : State) : (prime n s).owed = s.owed := rfl
@[simp] theorem prime_patience (n : Nat) (s : State) : (prime n s).patience = s.patience := rfl
@[simp] theorem prime_outbox (n : Nat) (s : State) : (prime n s).outbox = s.outbox := rfl
@[simp] theorem prime_freeCount (n : Nat) (s : State) : (prime n s).freeCount = s.freeCount := rfl
@[simp] theorem prime_now (n : Nat) (s : State) : (prime n s).now = s.now := rfl

/-! ## enable -/

@[simp] theorem enable_cfg (st : Settings) (s : State) : (enable st s).cfg = s.cfg := rfl
@[simp] theorem enable_activeSource (st : Settings) (s : State) :
    (enable st s).activeSource = s.activeSource := rfl
@[simp] theorem enable_currentRate (st : Settings) (s : State) :
    (enable st s).currentRate = s.currentRate := rfl
@[simp] theorem enable_rateValid (st : Settings) (s : State) : (enable st s).rateValid = s.rateValid := rfl
@[simp] theorem enable_adder (st : Settings) (s : State) : (enable st s).adder = st.adder := rfl
@[simp] theorem enable_fracIndex (st : Settings) (s : State) : (enable st s).fracIndex = st.fracIndex := rfl
@[simp] theorem enable_firstUpdate (st : Settings) (s : State) : (enable st s).firstUpdate = true := rfl
@[simp] theorem enable_prevCount (st : Settings) (s : State) : (enable st s).prevCount = s.prevCount := rfl
@[simp] theorem enable_prevValid (st : Settings) (s : State) : (enable st s).prevValid = s.prevValid := rfl
@[simp] theorem enable_integ (st : Settings) (s : State) : (enable st s).integ = s.integ := rfl
@[simp] theorem enable_lock (st : Settings) (s : State) : (enable st s).lock = s.lock := rfl
@[simp] theorem enable_dwell (st : Settings) (s : State) : (enable st s).dwell = s.dwell := rfl
@[simp] theorem enable_wdog (st : Settings) (s : State) : (enable st s).wdog = s.wdog := rfl
@[simp] theorem enable_flags (st : Settings) (s : State) : (enable st s).flags = s.flags := rfl
@[simp] theorem enable_synthReg (st : Settings) (s : State) :
    (enable st s).synthReg = fracWord s.cfg st.fracIndex := rfl
@[simp] theorem enable_synthValid (st : Settings) (s : State) : (enable st s).synthValid = true := rfl
@[simp] theorem enable_pin (st : Settings) (s : State) : (enable st s).pin = s.pin := rfl
@[simp] theorem enable_mailbox (st : Settings) (s : State) : (enable st s).mailbox = s.mailbox := rfl
@[simp] theorem enable_inflight (st : Settings) (s : State) : (enable st s).inflight = s.inflight := rfl
@[simp] theorem enable_failed (st : Settings) (s : State) : (enable st s).failed = s.failed := rfl
@[simp] theorem enable_noteMissed (st : Settings) (s : State) : (enable st s).noteMissed = s.noteMissed := rfl
@[simp] theorem enable_noteHardFail (st : Settings) (s : State) :
    (enable st s).noteHardFail = s.noteHardFail := rfl
@[simp] theorem enable_schedule (st : Settings) (s : State) : (enable st s).schedule = s.schedule := rfl
@[simp] theorem enable_owed (st : Settings) (s : State) : (enable st s).owed = s.owed := rfl
@[simp] theorem enable_patience (st : Settings) (s : State) : (enable st s).patience = s.patience := rfl
@[simp] theorem enable_outbox (st : Settings) (s : State) : (enable st s).outbox = s.outbox := rfl
@[simp] theorem enable_freeCount (st : Settings) (s : State) : (enable st s).freeCount = s.freeCount := rfl
@[simp] theorem enable_now (st : Settings) (s : State) : (enable st s).now = s.now := rfl

/-! ## applyUpdate -/

@[simp] theorem applyUpdate_cfg (c : Int) (s : State) : (applyUpdate c s).cfg = s.cfg := rfl
@[simp] theorem applyUpdate_activeSource (c : Int) (s : State) :
    (applyUpdate c s).activeSource = s.activeSource := rfl
@[simp] theorem applyUpdate_currentRate (c : Int) (s : State) :
    (applyUpdate c s).currentRate = s.currentRate := rfl
@[simp] theorem applyUpdate_rateValid (c : Int) (s : State) : (applyUpdate c s).rateValid = s.rateValid := rfl
@[simp] theorem applyUpdate_adder (c : Int) (s : State) : (applyUpdate c s).adder = s.adder := rfl
@[simp] theorem applyUpdate_fracIndex (c : Int) (s : State) :
    (applyUpdate c s).fracIndex = moveIndex s.cfg s.fracIndex (updateStep s.firstUpdate c) := rfl
@[simp] theorem applyUpdate_firstUpdate (c : Int) (s : State) : (applyUpdate c s).firstUpdate = false := rfl
@[simp] theorem applyUpdate_prevCount (c : Int) (s : State) : (applyUpdate c s).prevCount = s.prevCount := rfl
@[simp] theorem applyUpdate_prevValid (c : Int) (s : State) : (applyUpdate c s).prevValid = s.prevValid := rfl
@[simp] theorem applyUpdate_integ (c : Int) (s : State) : (applyUpdate c s).integ = s.integ := rfl
@[simp] theorem applyUpdate_lock (c : Int) (s : State) : (applyUpdate c s).lock = s.lock := rfl
@[simp] theorem applyUpdate_dwell (c : Int) (s : State) : (applyUpdate c s).dwell = s.dwell := rfl
@[simp] theorem applyUpdate_wdog (c : Int) (s : State) : (applyUpdate c s).wdog = s.wdog := rfl
@[simp] theorem applyUpdate_flags (c : Int) (s : State) : (applyUpdate c s).flags = s.flags := rfl
@[simp] theorem applyUpdate_synthReg (c : Int) (s : State) :
    (applyUpdate c s).synthReg = fracWord s.cfg (moveIndex s.cfg s.fracIndex (updateStep s.firstUpdate c)) := rfl
@[simp] theorem applyUpdate_synthValid (c : Int) (s : State) :
    (applyUpdate c s).synthValid = s.synthValid := rfl
@[simp] theorem applyUpdate_pin (c : Int) (s : State) : (applyUpdate c s).pin = s.pin := rfl
@[simp] theorem applyUpdate_mailbox (c : Int) (s : State) : (applyUpdate c s).mailbox = s.mailbox := rfl
@[simp] theorem applyUpdate_inflight (c : Int) (s : State) : (applyUpdate c s).inflight = s.inflight := rfl
@[simp] theorem applyUpdate_failed (c : Int) (s : State) : (applyUpdate c s).failed = s.failed := rfl
@[simp] theorem applyUpdate_noteMissed (c : Int) (s : State) :
    (applyUpdate c s).noteMissed = s.noteMissed := rfl
@[simp] theorem applyUpdate_noteHardFail (c : Int) (s : State) :
    (applyUpdate c s).noteHardFail = s.noteHardFail := rfl
@[simp] theorem applyUpdate_schedule (c : Int) (s : State) : (applyUpdate c s).schedule = s.schedule := rfl
@[simp] theorem applyUpdate_owed (c : Int) (s : State) : (applyUpdate c s).owed = s.owed := rfl
@[simp] theorem applyUpdate_patience (c : Int) (s : State) : (applyUpdate c s).patience = s.patience := rfl
@[simp] theorem applyUpdate_outbox (c : Int) (s : State) : (applyUpdate c s).outbox = s.outbox := rfl
@[simp] theorem applyUpdate_freeCount (c : Int) (s : State) : (applyUpdate c s).freeCount = s.freeCount := rfl
@[simp] theorem applyUpdate_now (c : Int) (s : State) : (applyUpdate c s).now = s.now := rfl

/-! ## lockStage -/

@[simp] theorem lockStage_cfg (a : Nat) (s : State) : (lockStage a s).cfg = s.cfg := rfl
@[simp] theorem lockStage_activeSource (a : Nat) (s : State) :
    (lockStage a s).activeSource = s.activeSource := rfl
@[simp] theorem lockStage_currentRate (a : Nat) (s : State) :
    (lockStage a s).currentRate = s.currentRate := rfl
@[simp] theorem lockStage_rateValid (a : Nat) (s : State) : (lockStage a s).rateValid = s.rateValid := rfl
@[simp] theorem lockStage_adder (a : Nat) (s : State) : (lockStage a s).adder = s.adder := rfl
@[simp] theorem lockStage_fracIndex (a : Nat) (s : State) : (lockStage a s).fracIndex = s.fracIndex := rfl
@[simp] theorem lockStage_firstUpdate (a : Nat) (s : State) :
    (lockStage a s).firstUpdate = s.firstUpdate := rfl
@[simp] theorem lockStage_prevCount (a : Nat) (s : State) : (lockStage a s).prevCount = s.prevCount := rfl
@[simp] theorem lockStage_prevValid (a : Nat) (s : State) : (lockStage a s).prevValid = s.prevValid := rfl
@[simp] theorem lockStage_integ (a : Nat) (s : State) : (lockStage a s).integ = s.integ := rfl
@[simp] theorem lockStage_lock (a : Nat) (s : State) :
    (lockStage a s).lock = nextLock s.cfg s.lock s.dwell a := rfl
@[simp] theorem lockStage_dwell (a : Nat) (s : State) :
    (lockStage a s).dwell = nextDwell s.cfg s.lock s.dwell a := rfl
@[simp] theorem lockStage_wdog (a : Nat) (s : State) : (lockStage a s).wdog = s.wdog := rfl
@[simp] theorem lockStage_flags (a : Nat) (s : State) : (lockStage a s).flags = s.flags := rfl
@[simp] theorem lockStage_synthReg (a : Nat) (s : State) : (lockStage a s).synthReg = s.synthReg := rfl
@[simp] theorem lockStage_synthValid (a : Nat) (s : State) : (lockStage a s).synthValid = s.synthValid := rfl
@[simp] theorem lockStage_pin (a : Nat) (s : State) : (lockStage a s).pin = s.pin := rfl
@[simp] theorem lockStage_mailbox (a : Nat) (s : State) : (lockStage a s).mailbox = s.mailbox := rfl
@[simp] theorem lockStage_inflight (a : Nat) (s : State) : (lockStage a s).inflight = s.inflight := rfl
@[simp] theorem lockStage_failed (a : Nat) (s : State) : (lockStage a s).failed = s.failed := rfl
@[simp] theorem lockStage_noteMissed (a : Nat) (s : State) : (lockStage a s).noteMissed = s.noteMissed := rfl
@[simp] theorem lockStage_noteHardFail (a : Nat) (s : State) :
    (lockStage a s).noteHardFail = s.noteHardFail := rfl
@[simp] theorem lockStage_schedule (a : Nat) (s : State) : (lockStage a s).schedule = s.schedule := rfl
@[simp] theorem lockStage_owed (a : Nat) (s : State) : (lockStage a s).owed = s.owed := rfl
@[simp] theorem lockStage_patience (a : Nat) (s : State) : (lockStage a s).patience = s.patience := rfl
@[simp] theorem lockStage_outbox (a : Nat) (s : State) : (lockStage a s).outbox = s.outbox := rfl
@[simp] theorem lockStage_freeCount (a : Nat) (s : State) : (lockStage a s).freeCount = s.freeCount := rfl
@[simp] theorem lockStage_now (a : Nat) (s : State) : (lockStage a s).now = s.now := rfl

/-! ## passTurn -/

@[simp] theorem passTurn_cfg (s : State) : (passTurn s).cfg = s.cfg := rfl
@[simp] theorem passTurn_activeSource (s : State) : (passTurn s).activeSource = s.activeSource := rfl
@[simp] theorem passTurn_currentRate (s : State) : (passTurn s).currentRate = s.currentRate := rfl
@[simp] theorem passTurn_rateValid (s : State) : (passTurn s).rateValid = s.rateValid := rfl
@[simp] theorem passTurn_adder (s : State) : (passTurn s).adder = s.adder := rfl
@[simp] theorem passTurn_fracIndex (s : State) : (passTurn s).fracIndex = s.fracIndex := rfl
@[simp] theorem passTurn_firstUpdate (s : State) : (passTurn s).firstUpdate = s.firstUpdate := rfl
@[simp] theorem passTurn_prevCount (s : State) : (passTurn s).prevCount = s.prevCount := rfl
@[simp] theorem passTurn_prevValid (s : State) : (passTurn s).prevValid = s.prevValid := rfl
@[simp] theorem passTurn_integ (s : State) : (passTurn s).integ = s.integ := rfl
@[simp] theorem passTurn_lock (s : State) : (passTurn s).lock = s.lock := rfl
@[simp] theorem passTurn_dwell (s : State) : (passTurn s).dwell = s.dwell := rfl
@[simp] theorem passTurn_wdog (s : State) : (passTurn s).wdog = s.wdog := rfl
@[simp] theorem passTurn_flags (s : State) : (passTurn s).flags = s.flags := rfl
@[simp] theorem passTurn_synthReg (s : State) : (passTurn s).synthReg = s.synthReg := rfl
@[simp] theorem passTurn_synthValid (s : State) : (passTurn s).synthValid = s.synthValid := rfl
@[simp] theorem passTurn_pin (s : State) : (passTurn s).pin = s.pin := rfl
@[simp] theorem passTurn_mailbox (s : State) : (passTurn s).mailbox = s.mailbox := rfl
@[simp] theorem passTurn_inflight (s : State) : (passTurn s).inflight = s.inflight := rfl
@[simp] theorem passTurn_failed (s : State) : (passTurn s).failed = s.failed := rfl
@[simp] theorem passTurn_noteMissed (s : State) : (passTurn s).noteMissed = s.noteMissed := rfl
@[simp] theorem passTurn_noteHardFail (s : State) : (passTurn s).noteHardFail = s.noteHardFail := rfl
@[simp] theorem passTurn_schedule (s : State) : (passTurn s).schedule = s.schedule := rfl
@[simp] theorem passTurn_owed (s : State) :
    (passTurn s).owed = if roundOpens s then enabledSteps s else stillOwed s := rfl
@[simp] theorem passTurn_patience (s : State) :
    (passTurn s).patience = if roundOpens s then Config.freePatience s.freeCount else s.patience - 1 := rfl
@[simp] theorem passTurn_outbox (s : State) : (passTurn s).outbox = s.outbox := rfl
@[simp] theorem passTurn_freeCount (s : State) :
    (passTurn s).freeCount = if roundOpens s then s.freeCount + 1 else s.freeCount := rfl
@[simp] theorem passTurn_now (s : State) : (passTurn s).now = s.now := rfl

/-! ## arrive -/

@[simp] theorem arrive_cfg (es : List Event) (s : State) : (arrive es s).cfg = s.cfg := rfl
@[simp] theorem arrive_activeSource (es : List Event) (s : State) :
    (arrive es s).activeSource = s.activeSource := rfl
@[simp] theorem arrive_currentRate (es : List Event) (s : State) :
    (arrive es s).currentRate = s.currentRate := rfl
@[simp] theorem arrive_rateValid (es : List Event) (s : State) : (arrive es s).rateValid = s.rateValid := rfl
@[simp] theorem arrive_adder (es : List Event) (s : State) : (arrive es s).adder = s.adder := rfl
@[simp] theorem arrive_fracIndex (es : List Event) (s : State) : (arrive es s).fracIndex = s.fracIndex := rfl
@[simp] theorem arrive_firstUpdate (es : List Event) (s : State) :
    (arrive es s).firstUpdate = s.firstUpdate := rfl
@[simp] theorem arrive_prevCount (es : List Event) (s : State) : (arrive es s).prevCount = s.prevCount := rfl
@[simp] theorem arrive_prevValid (es : List Event) (s : State) : (arrive es s).prevValid = s.prevValid := rfl
@[simp] theorem arrive_integ (es : List Event) (s : State) : (arrive es s).integ = s.integ := rfl
@[simp] theorem arrive_lock (es : List Event) (s : State) : (arrive es s).lock = s.lock := rfl
@[simp] theorem arrive_dwell (es : List Event) (s : State) : (arrive es s).dwell = s.dwell := rfl
@[simp] theorem arrive_wdog (es : List Event) (s : State) : (arrive es s).wdog = s.wdog := rfl
@[simp] theorem arrive_flags (es : List Event) (s : State) : (arrive es s).flags = s.flags := rfl
@[simp] theorem arrive_synthReg (es : List Event) (s : State) : (arrive es s).synthReg = s.synthReg := rfl
@[simp] theorem arrive_synthValid (es : List Event) (s : State) :
    (arrive es s).synthValid = s.synthValid := rfl
@[simp] theorem arrive_pin (es : List Event) (s : State) : (arrive es s).pin = s.pin := rfl
@[simp] theorem arrive_mailbox (es : List Event) (s : State) : (arrive es s).mailbox = s.mailbox := rfl
@[simp] theorem arrive_inflight (es : List Event) (s : State) : (arrive es s).inflight = s.inflight := rfl
@[simp] theorem arrive_failed (es : List Event) (s : State) : (arrive es s).failed = s.failed := rfl
@[simp] theorem arrive_noteMissed (es : List Event) (s : State) :
    (arrive es s).noteMissed = s.noteMissed := rfl
@[simp] theorem arrive_noteHardFail (es : List Event) (s : State) :
    (arrive es s).noteHardFail = s.noteHardFail := rfl
@[simp] theorem arrive_schedule (es : List Event) (s : State) :
    (arrive es s).schedule = s.schedule ++ es := rfl
@[simp] theorem arrive_owed (es : List Event) (s : State) : (arrive es s).owed = s.owed := rfl
@[simp] theorem arrive_patience (es : List Event) (s : State) : (arrive es s).patience = s.patience := rfl
@[simp] theorem arrive_outbox (es : List Event) (s : State) : (arrive es s).outbox = s.outbox := rfl
@[simp] theorem arrive_freeCount (es : List Event) (s : State) : (arrive es s).freeCount = s.freeCount := rfl
@[simp] theorem arrive_now (es : List Event) (s : State) : (arrive es s).now = s.now := rfl

/-! ## scheduleFirst -/

@[simp] theorem scheduleFirst_cfg (es : List Event) (s : State) : (scheduleFirst es s).cfg = s.cfg := rfl
@[simp] theorem scheduleFirst_activeSource (es : List Event) (s : State) :
    (scheduleFirst es s).activeSource = s.activeSource := rfl
@[simp] theorem scheduleFirst_currentRate (es : List Event) (s : State) :
    (scheduleFirst es s).currentRate = s.currentRate := rfl
@[simp] theorem scheduleFirst_rateValid (es : List Event) (s : State) :
    (scheduleFirst es s).rateValid = s.rateValid := rfl
@[simp] theorem scheduleFirst_adder (es : List Event) (s : State) :
    (scheduleFirst es s).adder = s.adder := rfl
@[simp] theorem scheduleFirst_fracIndex (es : List Event) (s : State) :
    (scheduleFirst es s).fracIndex = s.fracIndex := rfl
@[simp] theorem scheduleFirst_firstUpdate (es : List Event) (s : State) :
    (scheduleFirst es s).firstUpdate = s.firstUpdate := rfl
@[simp] theorem scheduleFirst_prevCount (es : List Event) (s : State) :
    (scheduleFirst es s).prevCount = s.prevCount := rfl
@[simp] theorem scheduleFirst_prevValid (es : List Event) (s : State) :
    (scheduleFirst es s).prevValid = s.prevValid := rfl
@[simp] theorem scheduleFirst_integ (es : List Event) (s : State) :
    (scheduleFirst es s).integ = s.integ := rfl
@[simp] theorem scheduleFirst_lock (es : List Event) (s : State) : (scheduleFirst es s).lock = s.lock := rfl
@[simp] theorem scheduleFirst_dwell (es : List Event) (s : State) :
    (scheduleFirst es s).dwell = s.dwell := rfl
@[simp] theorem scheduleFirst_wdog (es : List Event) (s : State) : (scheduleFirst es s).wdog = s.wdog := rfl
@[simp] theorem scheduleFirst_flags (es : List Event) (s : State) :
    (scheduleFirst es s).flags = s.flags := rfl
@[simp] theorem scheduleFirst_synthReg (es : List Event) (s : State) :
    (scheduleFirst es s).synthReg = s.synthReg := rfl
@[simp] theorem scheduleFirst_synthValid (es : List Event) (s : State) :
    (scheduleFirst es s).synthValid = s.synthValid := rfl
@[simp] theorem scheduleFirst_pin (es : List Event) (s : State) : (scheduleFirst es s).pin = s.pin := rfl
@[simp] theorem scheduleFirst_mailbox (es : List Event) (s : State) :
    (scheduleFirst es s).mailbox = s.mailbox := rfl
@[simp] theorem scheduleFirst_inflight (es : List Event) (s : State) :
    (scheduleFirst es s).inflight = s.inflight := rfl
@[simp] theorem scheduleFirst_failed (es : List Event) (s : State) :
    (scheduleFirst es s).failed = s.failed := rfl
@[simp] theorem scheduleFirst_noteMissed (es : List Event) (s : State) :
    (scheduleFirst es s).noteMissed = s.noteMissed := rfl
@[simp] theorem scheduleFirst_noteHardFail (es : List Event) (s : State) :
    (scheduleFirst es s).noteHardFail = s.noteHardFail := rfl
@[simp] theorem scheduleFirst_schedule (es : List Event) (s : State) :
    (scheduleFirst es s).schedule = es ++ s.schedule := rfl
@[simp] theorem scheduleFirst_owed (es : List Event) (s : State) : (scheduleFirst es s).owed = s.owed := rfl
@[simp] theorem scheduleFirst_patience (es : List Event) (s : State) :
    (scheduleFirst es s).patience = s.patience + es.length := rfl
@[simp] theorem scheduleFirst_outbox (es : List Event) (s : State) :
    (scheduleFirst es s).outbox = s.outbox := rfl
@[simp] theorem scheduleFirst_freeCount (es : List Event) (s : State) :
    (scheduleFirst es s).freeCount = s.freeCount := rfl
@[simp] theorem scheduleFirst_now (es : List Event) (s : State) : (scheduleFirst es s).now = s.now := rfl

end Sys2Proof.Machine
end

