-- ==== Sys2Proof/Laws/Ops.lean ====
section
/-! SUPPORT. One lemma per shared operation that says everything it can do. -/

namespace Sys2Proof.Machine

open Sys2Proof.Safety

/-- An internal step's answer is its state, and only while it is enabled. -/
theorem whenEnabled_next {b : Bool} {k : InternalStep} {t u : State}
    (h : whenEnabled b k t = .next u) : b = true ∧ u = t := by
  cases b
  · cases h
  · injection h with h; exact ⟨rfl, h.symm⟩

@[simp] theorem whenEnabled_true (k : InternalStep) (t : State) : whenEnabled true k t = .next t := rfl

@[simp] theorem whenEnabled_false (k : InternalStep) (t : State) :
    whenEnabled false k t = .refused (.notEnabled k) := rfl

/-- An illegal word is dropped or raises BAD_CMD. -/
theorem illegalWord_cases (w : Word) (s : State) :
    (pinPort w = true ∧ illegalWord w s = s) ∨
    (pinPort w = false ∧ illegalWord w s = { s with flags := setFlag s.flags .badCmd }) := by
  cases h : pinPort w
  · exact .inr ⟨rfl, by simp [illegalWord, h, raise]⟩
  · exact .inl ⟨rfl, by simp [illegalWord, h]⟩

/-- A request is discarded by a failed driver, else it is the mailbox's content. -/
theorem deliver_cases (r : PinRequest) (s : State) :
    (s.failed = true ∧ deliver r s = s) ∨
    (s.failed = false ∧ deliver r s = { s with mailbox := some r }) := by
  cases h : s.failed
  · exact .inr ⟨rfl, by simp [deliver, h]⟩
  · exact .inl ⟨rfl, by simp [deliver, h]⟩

/-- The switch sequence ends in the state R224 lists. -/
theorem switchSeq_eq_afterSwitch (src : ClockSource) (r : Option (BitVec 32)) (s : State) :
    switchSeq src r s = afterSwitch src r s := by
  cases r <;> rfl

/-- A fallback sets two flags and switches to Internal, keeping the rate. -/
theorem fallBack_eq_afterSwitch (cause : Condition) (s : State) :
    fallBack cause s = afterSwitch .internal (rateInForce s)
      { s with flags := setFlag (setFlag s.flags cause) .fallback } := by
  rw [fallBack, switchSeq_eq_afterSwitch]; rfl

/-- A supported frequency has settings (R112). -/
theorem computeSettings_of_supported {p : Params} {f : Nat} (h : supported p f) :
    computeSettings p f = some (settingsFor p f) := if_pos h

/-- An unsupported frequency has none (R112). -/
theorem computeSettings_of_unsupported {p : Params} {f : Nat} (h : ¬ supported p f) :
    computeSettings p f = none := if_neg h

/-- A rate request changes nothing, fails, or switches at the active source. -/
theorem requestRate_cases (freq : BitVec 32) (s : State) :
    (s.rateValid = true ∧ freq = s.currentRate ∧ requestRate freq s = s) ∨
    (¬ (s.rateValid = true ∧ freq = s.currentRate) ∧ ¬ supported s.cfg freq.toNat ∧
      requestRate freq s = { s with flags := setFlag s.flags .unsupportedFreq }) ∨
    (¬ (s.rateValid = true ∧ freq = s.currentRate) ∧ supported s.cfg freq.toNat ∧
      requestRate freq s = afterSwitch s.activeSource (some freq) s) := by
  by_cases h : s.rateValid = true ∧ freq = s.currentRate
  · exact .inl ⟨h.1, h.2, by simp only [requestRate, if_pos h]⟩
  · by_cases hs : supported s.cfg freq.toNat
    · refine .inr (.inr ⟨h, hs, ?_⟩)
      simp only [requestRate, if_neg h, freqOf, computeSettings_of_supported hs]
      exact switchSeq_eq_afterSwitch ..
    · refine .inr (.inl ⟨h, hs, ?_⟩)
      simp only [requestRate, if_neg h, freqOf, computeSettings_of_unsupported hs]; rfl

/-- The acceptance of a timed request (R190). -/
theorem acceptTimed_cases (off : Int) (s : State) :
    (off < s.cfg.minLeadTicks ∧ acceptTimed off s = { s with noteMissed := true, inflight := some 0 }) ∨
    (¬ off < s.cfg.minLeadTicks ∧ acceptTimed off s = { s with inflight := some off }) := by
  by_cases h : off < s.cfg.minLeadTicks
  · exact .inl ⟨h, by simp only [acceptTimed, if_pos h]⟩
  · exact .inr ⟨h, by simp only [acceptTimed, if_neg h]⟩

/-- A forwarded event primes, stalls or takes a sample; the watchdog is cleared in each case (R140). -/
theorem observe_cases (count : Nat) (s : State) :
    (s.prevValid = false ∧ observe count s = { s with wdog := 0, prevCount := count, prevValid := true }) ∨
    (s.prevValid = true ∧ count = s.prevCount ∧
      observe count s = { s with wdog := 0, flags := setFlag s.flags .timerStall }) ∨
    (s.prevValid = true ∧ count ≠ s.prevCount ∧ observe count s = takeSample count { s with wdog := 0 }) := by
  cases h : s.prevValid
  · exact .inl ⟨rfl, by simp [observe, h, prime]⟩
  · by_cases hc : count = s.prevCount
    · exact .inr (.inl ⟨rfl, hc, by simp [observe, h, hc, raise]⟩)
    · exact .inr (.inr ⟨rfl, hc, by simp [observe, h, hc]⟩)

/-- A sample's effect on every element it writes (R142, R145, R118, R147). -/
theorem takeSample_eq (count : Nat) (s : State) :
    takeSample count s =
      let e := errorSample s.cfg.timerMod count s.prevCount s.adder
      let integ := integrate s.cfg s.integ e
      let index := moveIndex s.cfg s.fracIndex (updateStep s.firstUpdate (correction s.cfg integ e))
      { s with
        prevCount := count
        integ := integ
        fracIndex := index
        firstUpdate := false
        synthReg := fracWord s.cfg index
        lock := nextLock s.cfg s.lock s.dwell e.natAbs
        dwell := nextDwell s.cfg s.lock s.dwell e.natAbs } := rfl

/-- A clamped value lies between the bounds (R11). -/
theorem clamp_bounds (x : Int) {lo hi : Int} (h : lo ≤ hi) : lo ≤ clamp x lo hi ∧ clamp x lo hi ≤ hi := by
  unfold clamp; split
  · omega
  · split <;> omega

/-! ## What a step takes -/

/-- The enabling conditions read none of the fields a turn writes. -/
@[simp] theorem stepEnabled_passTurn (s : State) (k : InternalStep) :
    stepEnabled (passTurn s) k = stepEnabled s k := by cases k <;> rfl

@[simp] theorem enabledSteps_passTurn (s : State) : enabledSteps (passTurn s) = enabledSteps s := by
  simp only [enabledSteps, funext (stepEnabled_passTurn s)]

/-- What waits in the schedule enables and disables nothing. -/
@[simp] theorem stepEnabled_arrive (es : List Event) (s : State) (k : InternalStep) :
    stepEnabled (arrive es s) k = stepEnabled s k := by cases k <;> rfl

@[simp] theorem enabledSteps_arrive (es : List Event) (s : State) :
    enabledSteps (arrive es s) = enabledSteps s := by
  simp only [enabledSteps, funext (stepEnabled_arrive es s)]

@[simp] theorem stillOwed_arrive (es : List Event) (s : State) : stillOwed (arrive es s) = stillOwed s := by
  simp only [stillOwed, arrive_owed, enabledSteps_arrive]

/-- What arrives makes nothing fall due. -/
@[simp] theorem dueStep_arrive (es : List Event) (s : State) : dueStep (arrive es s) = dueStep s := by
  simp only [dueStep, arrive_patience, stillOwed_arrive]

/-- Nothing is due while there is patience. -/
theorem dueStep_of_patience {s : State} {n : Nat} (h : s.patience = n + 1) : dueStep s = none := by
  simp only [dueStep, h]

/-- Nothing is due while nothing is owed. -/
theorem dueStep_of_owed {s : State} (h : s.owed = []) : dueStep s = none := by
  unfold dueStep; split
  · simp [stillOwed, h]
  · rfl

/-- A due step is one of those still owed, and the patience is used up. -/
theorem dueStep_some {s : State} {k : InternalStep} (h : dueStep s = some k) :
    s.patience = 0 ∧ k ∈ stillOwed s := by
  unfold dueStep at h; split at h
  · exact ⟨‹_›, List.mem_of_head? h⟩
  · cases h

/-- The enabled steps are the block's own steps whose condition holds. -/
theorem mem_enabledSteps {s : State} {k : InternalStep} :
    k ∈ enabledSteps s ↔ k ∈ ownSteps ∧ stepEnabled s k = true := List.mem_filter

/-- What is still owed is owed and enabled. -/
theorem mem_stillOwed {s : State} {k : InternalStep} :
    k ∈ stillOwed s ↔ k ∈ s.owed ∧ k ∈ enabledSteps s := by
  simp only [stillOwed, List.mem_filter, List.contains_iff_mem]

/-- A due step is one of the enabled steps. -/
theorem mem_enabledSteps_of_due {s : State} {k : InternalStep} (h : dueStep s = some k) :
    k ∈ enabledSteps s := (mem_stillOwed.mp (dueStep_some h).2).2

/-- A due step is enabled. -/
theorem stepEnabled_of_due {s : State} {k : InternalStep} (h : dueStep s = some k) :
    stepEnabled s k = true := (mem_enabledSteps.mp (mem_enabledSteps_of_due h)).2

/-- With nothing due and no patience, nothing is owed. -/
theorem stillOwed_of_not_due {s : State} (h : dueStep s = none) (hp : s.patience = 0) :
    stillOwed s = [] := by simpa [dueStep, hp] using h

/-- The choice is one of the alternatives. -/
theorem chosenStep_mem (k : InternalStep) (ks : List InternalStep) (n : Nat) :
    chosenStep k ks n ∈ k :: ks := by
  have h : Config.freeChoice n % (ks.length + 1) < (k :: ks).length := Nat.mod_lt _ (by simp)
  rw [chosenStep, List.getD_eq_getElem _ _ h]
  exact List.getElem_mem h

/-- What an idle turn can take. -/
theorem takeIdle_cases (s : State) :
    (enabledSteps s = [] ∧ takeIdle s = none) ∨
    ∃ k ∈ enabledSteps s, ∃ n, s.freeCount ≤ n ∧ n ≤ s.freeCount + 1 ∧
      takeIdle s = some (.internal k, { s with freeCount := n }) := by
  unfold takeIdle; split
  · exact .inl ⟨‹_›, rfl⟩
  · exact .inr ⟨_, by simp [*], _, Nat.le_refl _, Nat.le_succ _, rfl⟩
  · rename_i k ks _ h
    exact .inr ⟨_, h ▸ chosenStep_mem .., _, Nat.le_succ _, Nat.le_refl _, rfl⟩

/-- What a step can take: a due step, the head of the schedule, an enabled step, or nothing. -/
theorem take_cases (s : State) :
    (∃ k, dueStep s = some k ∧ take s = some (.internal k, { s with owed := stillOwed s })) ∨
    (dueStep s = none ∧ ∃ e rest, s.schedule = e :: rest ∧
      take s = some (e, { passTurn s with schedule := rest })) ∨
    (dueStep s = none ∧ s.schedule = [] ∧ enabledSteps s = [] ∧ take s = none) ∨
    (dueStep s = none ∧ s.schedule = [] ∧ ∃ k ∈ enabledSteps s, ∃ n,
      (passTurn s).freeCount ≤ n ∧ n ≤ (passTurn s).freeCount + 1 ∧
      take s = some (.internal k, { passTurn s with freeCount := n })) := by
  cases hd : dueStep s with
  | some k => exact .inl ⟨k, rfl, by simp only [take, hd]⟩
  | none =>
    refine .inr ?_
    have ht : take s = takeFree (passTurn s) := by simp only [take, hd]
    cases hs : s.schedule with
    | cons e rest =>
      exact .inl ⟨rfl, e, rest, rfl, by rw [ht]; simp only [takeFree, passTurn_schedule, hs]⟩
    | nil =>
      have hf : take s = takeIdle (passTurn s) := by
        rw [ht]; simp only [takeFree, passTurn_schedule, hs]
      refine .inr ?_
      obtain ⟨he, h⟩ | ⟨k, hk, n, hl, hu, h⟩ := takeIdle_cases (passTurn s)
      · exact .inl ⟨rfl, rfl, by simpa using he, hf.trans h⟩
      · exact .inr ⟨rfl, rfl, k, by simpa using hk, n, hl, hu, hf.trans h⟩

/-- A due step is what is run. -/
theorem fetch_due {s : State} {k : InternalStep} (h : dueStep s = some k) :
    fetch s = .run k.instr { s with owed := (stillOwed s).erase k } := by
  simp only [fetch, take, h, fetchEvent]

/-- With nothing due, the head of the schedule is what is run. -/
theorem fetch_head {s : State} {e : Event} {rest : List Event} (hd : dueStep s = none)
    (h : s.schedule = e :: rest) : fetch s = fetchEvent e { passTurn s with schedule := rest } := by
  simp only [fetch, take, hd, takeFree, passTurn_schedule, h]

theorem fetch_word {s : State} {w : Word} {rest : List Event} (hd : dueStep s = none)
    (h : s.schedule = .word w :: rest) : fetch s = fetchWord w { passTurn s with schedule := rest } :=
  fetch_head hd h

theorem fetch_internal {s : State} {k : InternalStep} {rest : List Event} (hd : dueStep s = none)
    (h : s.schedule = .internal k :: rest) :
    fetch s = .run k.instr { passTurn s with
      schedule := rest, owed := (passTurn s).owed.erase k } := fetch_head hd h

/-- Events put first are taken before anything that could fall due. -/
theorem dueStep_scheduleFirst (e : Event) (es : List Event) (s : State) :
    dueStep (scheduleFirst (e :: es) s) = none := dueStep_of_patience rfl

end Sys2Proof.Machine
end

