-- ==== Sys2Proof/Laws/PerInstr.lean ====
section
/-! SUPPORT. The family OpcodeByte: an instruction's word carries the opcode byte of its row, and has a
word exactly when the table gives it one. -/

namespace Sys2Proof.Laws.OpcodeByte

open Sys2Proof

/-- R81, R85, R92, R93, R94: the word's `OPC` is the row's, and an instruction without an opcode has no
word. -/
def Statement (i : Instr) : Prop :=
  (encode i).map opcField = (opcodeOfInstr i).map Opcode.code

theorem selsrc (src : ClockSource) :
    Statement (.selsrc src) := by simp [Statement, encode, opcodeOfInstr]

theorem setrate (freq : BitVec 32) :
    Statement (.setrate freq) := by simp [Statement, encode, opcodeOfInstr]

theorem getstatus : Statement .getstatus := by simp [Statement, encode, opcodeOfInstr]

theorem clrflags (mask : BitVec 8) :
    Statement (.clrflags mask) := by simp [Statement, encode, opcodeOfInstr]

theorem synget (freq : BitVec 32) :
    Statement (.synget freq) := by simp [Statement, encode, opcodeOfInstr]

theorem refev (src : ClockSource) (kind : EventKind) (count : BitVec 32) :
    Statement (.refev src kind count) := by simp [Statement, encode, opcodeOfInstr]

theorem los (src : ClockSource) : Statement (.los src) := by simp [Statement, encode, opcodeOfInstr]

theorem rateirq (freq : BitVec 32) :
    Statement (.rateirq freq) := by simp [Statement, encode, opcodeOfInstr]

theorem audmsg (payload : BitVec 32) :
    Statement (.audmsg payload) := by simp [Statement, encode, opcodeOfInstr]

theorem pininit : Statement .pininit := by simp [Statement, encode, opcodeOfInstr]

theorem pintgl : Statement .pintgl := by simp [Statement, encode, opcodeOfInstr]

theorem pintglt (off : BitVec 32) :
    Statement (.pintglt off) := by simp [Statement, encode, opcodeOfInstr]

theorem pinfault : Statement .pinfault := by simp [Statement, encode, opcodeOfInstr]

theorem status (src : ClockSource) (lock : BitVec 2) (rateValid : Bool) (flags : BitVec 8) (rate : BitVec 32) :
    Statement (.status src lock rateValid flags rate) := by simp [Statement, encode, opcodeOfInstr, statusWord]

theorem settings (fracIndex : BitVec 16) (firstUpdate : Bool) (unsup : Bool) (adder : BitVec 32) :
    Statement (.settings fracIndex firstUpdate unsup adder) := by simp [Statement, encode, opcodeOfInstr, settingsWord]

theorem timeout : Statement .timeout := rfl

theorem note : Statement .note := rfl

theorem paccept : Statement .paccept := rfl

theorem pflip : Statement .pflip := rfl

theorem tick : Statement .tick := rfl

theorem reset : Statement .reset := rfl

end Sys2Proof.Laws.OpcodeByte
end

