-- ==== Sys2Proof/Laws/Turn.lean ====
section
/-! SUPPORT. What an instruction leaves of the fields that decide what is taken next, and what a step
does to them. -/

namespace Sys2Proof.Machine

/-- Two states agree on what decides the next turn, but for the enabling conditions. -/
def SameTurn (s t : State) : Prop :=
  t.owed = s.owed ∧ t.patience = s.patience ∧ t.schedule = s.schedule

theorem SameTurn.ite {c : Prop} [Decidable c] {s x y : State} (hx : SameTurn s x) (hy : SameTurn s y) :
    SameTurn s (if c then x else y) := by split <;> assumption

theorem sameTurn_switchSeq (src : ClockSource) (r : Option (BitVec 32)) (s : State) :
    SameTurn s (switchSeq src r s) := by cases r <;> exact ⟨rfl, rfl, rfl⟩

theorem sameTurn_raise (c : Condition) (s : State) : SameTurn s (raise c s) := ⟨rfl, rfl, rfl⟩

theorem SameTurn.trans {s t u : State} (h : SameTurn s t) (k : SameTurn t u) : SameTurn s u :=
  ⟨k.1.trans h.1, k.2.1.trans h.2.1, k.2.2.trans h.2.2⟩

/-- A switch to Internal after two flags are raised: TIMEOUT and every fallback. -/
theorem sameTurn_flagged (c d : Condition) (r : Option (BitVec 32)) (s : State) :
    SameTurn s (switchSeq .internal r (raise d (raise c s))) :=
  ((sameTurn_raise c s).trans (sameTurn_raise d _)).trans (sameTurn_switchSeq _ _ _)

theorem sameTurn_fallBack (c : Condition) (s : State) : SameTurn s (fallBack c s) :=
  sameTurn_flagged c .fallback (keptRate s) s

theorem sameTurn_requestRate (freq : BitVec 32) (s : State) : SameTurn s (requestRate freq s) := by
  obtain ⟨-, -, h⟩ | ⟨-, -, h⟩ | ⟨-, -, h⟩ := requestRate_cases freq s <;> rw [h] <;>
    exact ⟨rfl, rfl, rfl⟩

theorem sameTurn_observe (count : Nat) (s : State) : SameTurn s (observe count s) := by
  obtain ⟨-, h⟩ | ⟨-, -, h⟩ | ⟨-, -, h⟩ := observe_cases count s <;> rw [h] <;>
    exact ⟨rfl, rfl, rfl⟩

theorem sameTurn_deliver (r : PinRequest) (s : State) : SameTurn s (deliver r s) := by
  unfold deliver; split <;> exact ⟨rfl, rfl, rfl⟩

theorem sameTurn_takeRequest (s : State) : SameTurn s (takeRequest s) := by
  unfold takeRequest; split
  · rename_i r _
    cases r with
    | timed off =>
      obtain ⟨-, h⟩ | ⟨-, h⟩ := acceptTimed_cases (offsetOf off) { s with mailbox := none } <;>
        simp only [acceptRequest, h] <;> exact ⟨rfl, rfl, rfl⟩
    | init => exact ⟨rfl, rfl, rfl⟩
    | immediate => exact ⟨rfl, rfl, rfl⟩
  · exact ⟨rfl, rfl, rfl⟩

theorem sameTurn_illegalWord (w : Word) (s : State) : SameTurn s (illegalWord w s) := by
  unfold illegalWord; split <;> exact ⟨rfl, rfl, rfl⟩

theorem sameTurn_takeMissed (s : State) : SameTurn s (takeMissed s) := by
  unfold takeMissed; split <;> exact ⟨rfl, rfl, rfl⟩

theorem sameTurn_takeHardFail (s : State) : SameTurn s (takeHardFail s) := by
  have h : SameTurn s { s with noteHardFail := false } := ⟨rfl, rfl, rfl⟩
  unfold takeHardFail; split
  · exact .ite (h.trans (sameTurn_raise .hardFail _)) (h.trans (sameTurn_fallBack .hardFail _))
  · exact ⟨rfl, rfl, rfl⟩

/-- No instruction writes the fields that decide what is taken next. -/
theorem exec_sameTurn {i : Instr} {s t : State} (h : exec i s = .next t) : SameTurn s t := by
  cases i with
  | selsrc src =>
    cases h
    exact .ite (sameTurn_raise .badCmd s) (.ite (sameTurn_raise .badCmd s)
      (.ite ⟨rfl, rfl, rfl⟩ (sameTurn_switchSeq src (keptRate s) s)))
  | setrate => cases h; exact sameTurn_requestRate ..
  | rateirq => cases h; exact sameTurn_requestRate ..
  | los => cases h; exact .ite (sameTurn_fallBack .los s) ⟨rfl, rfl, rfl⟩
  | refev => cases h; exact .ite (sameTurn_observe ..) ⟨rfl, rfl, rfl⟩
  | pininit => cases h; exact sameTurn_deliver ..
  | pintgl => cases h; exact sameTurn_deliver ..
  | pintglt => cases h; exact sameTurn_deliver ..
  | timeout => rw [(whenEnabled_next h).2]; exact sameTurn_flagged .refTimeout .fallback _ s
  | note => rw [(whenEnabled_next h).2]; exact (sameTurn_takeMissed s).trans (sameTurn_takeHardFail _)
  | paccept => rw [(whenEnabled_next h).2]; exact sameTurn_takeRequest s
  | pflip => rw [(whenEnabled_next h).2]; exact ⟨rfl, rfl, rfl⟩
  | tick => rw [(whenEnabled_next h).2]; exact ⟨rfl, rfl, rfl⟩
  | status => cases h; exact sameTurn_illegalWord ..
  | settings => cases h; exact sameTurn_illegalWord ..
  | getstatus => cases h; exact ⟨rfl, rfl, rfl⟩
  | clrflags => cases h; exact ⟨rfl, rfl, rfl⟩
  | audmsg => cases h; exact ⟨rfl, rfl, rfl⟩
  | synget => cases h; exact ⟨rfl, rfl, rfl⟩
  | pinfault => cases h; exact ⟨rfl, rfl, rfl⟩
  | reset => cases h; exact ⟨rfl, rfl, rfl⟩

/-- What is owed once an event has been taken. -/
def owedAfter (e : Event) (owed : List InternalStep) : List InternalStep :=
  match e with
  | .word _ => owed
  | .internal k => owed.erase k

/-- A step that goes on has taken an event, and writes the fields of the turn as taking it says. -/
theorem step_take {s t : State} (h : step s = .next t) :
    ∃ e u, take s = some (e, u) ∧ t.owed = owedAfter e u.owed ∧ t.patience = u.patience ∧
      t.schedule = u.schedule := by
  unfold step fetch at h
  cases ht : take s with
  | none => simp [ht] at h
  | some p =>
    obtain ⟨e, u⟩ := p
    refine ⟨e, u, rfl, ?_⟩
    simp only [ht] at h
    cases e with
    | internal k => exact exec_sameTurn h
    | word w =>
      simp only [fetchEvent, fetchWord] at h
      cases hd : decode u.cfg.timerMod w with
      | ok i => rw [hd] at h; exact exec_sameTurn h
      | error _ =>
        rw [hd] at h
        cases h
        exact sameTurn_illegalWord w u

/-- Taking an event changes the model's own fields alone. -/
theorem take_frame {s u : State} {e : Event} (h : take s = some (e, u)) :
    ∃ schedule owed patience freeCount,
      u = { s with schedule := schedule, owed := owed, patience := patience, freeCount := freeCount } := by
  obtain ⟨_, -, h'⟩ | ⟨-, _, _, -, h'⟩ | ⟨-, -, -, h'⟩ | ⟨-, -, _, -, _, -, -, h'⟩ := take_cases s <;>
    rw [h] at h' <;> cases h' <;> exact ⟨_, _, _, _, rfl⟩

/-- A step that goes on runs an instruction or handles an illegal word, on the state with the model's own
fields changed. The count of a REFEV it runs is below TIMER_MOD (R85). -/
theorem step_cases {s t : State} (h : step s = .next t) :
    ∃ schedule owed patience freeCount, ∃ u : State,
      u = { s with schedule := schedule, owed := owed, patience := patience, freeCount := freeCount } ∧
      ((∃ i, exec i u = .next t ∧
        ∀ src kind count, i = .refev src kind count → count.toNat < s.cfg.timerMod) ∨
       ∃ w, t = illegalWord w u) := by
  unfold step fetch at h
  cases ht : take s with
  | none => simp [ht] at h
  | some p =>
    obtain ⟨e, u⟩ := p
    obtain ⟨sch, owed, pat, n, rfl⟩ := take_frame ht
    simp only [ht] at h
    cases e with
    | internal k =>
      exact ⟨sch, owed.erase k, pat, n, _, rfl, .inl ⟨k.instr, h, fun _ _ _ hk => by cases k <;> cases hk⟩⟩
    | word w =>
      refine ⟨sch, owed, pat, n, _, rfl, ?_⟩
      simp only [fetchEvent, fetchWord] at h
      cases hd : decode s.cfg.timerMod w with
      | error _ => rw [hd] at h; cases h; exact .inr ⟨w, rfl⟩
      | ok i =>
        rw [hd] at h
        refine .inl ⟨i, h, ?_⟩
        rintro src kind count rfl
        exact count_lt_of_decode hd

/-- An own step completes while it is enabled. -/
theorem exec_of_enabled {s : State} {k : InternalStep} (h : stepEnabled s k = true) :
    ∃ t, exec k.instr s = .next t := by
  cases k with
  | reset => exact ⟨_, rfl⟩
  | timeout => exact ⟨_, if_pos h⟩
  | note => exact ⟨_, if_pos h⟩
  | paccept => exact ⟨_, if_pos h⟩
  | pflip => exact ⟨_, if_pos h⟩
  | tick => exact ⟨_, if_pos h⟩

end Sys2Proof.Machine
end

