-- ==== Sys2Proof/Machine/Assembler.lean ====
section
/-! DEFINITION. The textual form of messages, the directives of the test language and the
pseudo-instructions (30_encoding.md R99, R100, R101). -/

namespace Sys2Proof.Machine

/-- A source operand (R99). -/
def sourceText : ClockSource → String
  | .internal => "INTERNAL"
  | .spdif => "SPDIF"
  | .adat => "ADAT"
  | .hostFeedback => "HOST"

/-- A kind operand (R99). -/
def kindText : EventKind → String
  | .edge => "EDGE"
  | .rateReport => "RATE"

/-- The text of an input message (R99); the other rows have none. -/
def messageText : Instr → Option String
  | .selsrc src => some ("SELSRC " ++ sourceText src)
  | .setrate freq => some ("SETRATE " ++ toString freq.toNat)
  | .getstatus => some "GETSTATUS"
  | .clrflags mask => some ("CLRFLAGS " ++ toString mask.toNat)
  | .synget freq => some ("SYNGET " ++ toString freq.toNat)
  | .refev src kind count =>
      some ("REFEV " ++ sourceText src ++ ", " ++ kindText kind ++ ", " ++ toString count.toNat)
  | .los src => some ("LOS " ++ sourceText src)
  | .rateirq freq => some ("RATEIRQ " ++ toString freq.toNat)
  | .audmsg payload => some ("AUDMSG " ++ toString payload.toNat)
  | .pininit => some "PININIT"
  | .pintgl => some "PINTGL"
  | .pintglt off => some ("PINTGLT " ++ toString off.toInt)
  | .pinfault => some "PINFAULT"
  | .status _ _ _ _ _ | .settings _ _ _ _ | .timeout | .note | .paccept | .pflip | .tick
  | .reset => none

/-- A line of a program (R100): a word, a message, `RESET`, `TICK n`, or `DO` an internal step. -/
inductive Directive where
  | word (w : Word)
  | message (i : Instr)
  | reset
  | ticks (n : Nat)
  | perform (k : InternalStep)
  deriving DecidableEq, Repr

/-- What a line schedules. -/
def directiveEvents : Directive → List Event
  | .word w => [.word w]
  | .message i =>
      match encode i with
      | some w => [.word w]
      | none => []
  | .reset => [.internal .reset]
  | .ticks n => List.replicate n (.internal .tick)
  | .perform k => [.internal k]

/-- A program's schedule: its lines in order (R100). -/
def programEvents (program : List Directive) : List Event := program.flatMap directiveEvents

/-- The state in which a program is what the next steps take, one line after another (log 3, log 23). -/
def loadProgram (program : List Directive) (s : State) : State := scheduleFirst (programEvents program) s

/-- `selectSource(s)` is `SELSRC s` (R101). -/
def selectSource (src : ClockSource) : Instr := .selsrc src

/-- `setTargetRate(f)` is `SETRATE f` (R101). -/
def setTargetRate (freq : BitVec 32) : Instr := .setrate freq

/-- `getSettings(f)` and `computeSettings(f)` are `SYNGET f` (R101). -/
def getSettings (freq : BitVec 32) : Instr := .synget freq

/-- `init()` is `PININIT` (R101). -/
def initPin : Instr := .pininit

/-- `toggle()` is `PINTGL` (R101). -/
def toggle : Instr := .pintgl

/-- `toggleTimed(k)` is `PINTGLT k` (R101). -/
def toggleTimed (off : BitVec 32) : Instr := .pintglt off

/-- `observe(event)` and `update(count, settings)` are `REFEV src, kind, count` (R101). -/
def observeEvent (src : ClockSource) (kind : EventKind) (count : BitVec 32) : Instr :=
  .refev src kind count

end Sys2Proof.Machine
end

