-- ==== Sys2Proof/Tests/Slice0.lean ====
section
/-! SUPPORT. Tests. Expected values are those of 95_test_vectors.md (section numbers in the comments) or
worked examples of the rules, in its configuration TV-CFG. After them, for every statement of
Certificates/Slice0/Obligations.lean that has hypotheses, a concrete state and operands that meet them. -/

namespace Sys2Proof.Tests

open Sys2Proof Sys2Proof.Machine Sys2Proof.Safety

/-! ## Helpers -/

/-- The outcome is a next state with the property. -/
def gives (o : Host.Outcome State Fault Refusal) (p : State → Bool) : Bool :=
  match o with
  | .next t => p t
  | .fault _ | .refused _ => false

/-- The outcome is the refusal of an internal step that is not enabled. -/
def refuses (o : Host.Outcome State Fault Refusal) (k : InternalStep) : Bool :=
  match o with
  | .refused r => r == .notEnabled k
  | .next _ | .fault _ => false

/-- The decoder's answer is this instruction. -/
def decodesTo (w : Word) (i : Instr) : Bool :=
  match decode 65536 w with
  | .ok j => j == i
  | .error _ => false

/-- The decoder's answer is this rejection. -/
def rejects (w : Word) (e : DecodeError) : Bool :=
  match decode 65536 w with
  | .ok _ => false
  | .error f => f == e

/-- After SETRATE 48000 from reset. -/
def rated : State :=
  { State.reset with
    currentRate := 48000#32, rateValid := true, adder := 34464, synthReg := 8#32, synthValid := true }

/-- `rated` after a priming event with count `c`. -/
def primed (c : Nat) : State := { rated with prevCount := c, prevValid := true }

/-- LOCKED on a source at 48000 Hz. -/
def lockedOn (src : ClockSource) : State :=
  { primed 0 with activeSource := src, firstUpdate := false, lock := .locked, dwell := 8 }

/-- A driver with a request waiting. -/
def waiting (r : PinRequest) : State := { State.reset with pin := .low, mailbox := some r }

/-- A driver with a flip committed. -/
def flying (rem : Int) : State := { State.reset with pin := .low, inflight := some rem }

/-- A missed deadline not yet reported, its NOTE owed after `n` more turns. -/
def noting (n : Nat) : State := { State.reset with noteMissed := true, owed := [.note], patience := n }

/-- A failed driver whose failure the loop has taken. -/
def broken : State := { rated with failed := true, flags := 0x10#8 }

/-- The invariants and ranges as a computation, for concrete states. -/
def invCheck (s : State) : Bool :=
  decide (s.fracIndex < s.cfg.tableSize ∧ s.adder < s.cfg.timerMod ∧
    -(s.cfg.iMax : Int) ≤ s.integ ∧ s.integ ≤ (s.cfg.iMax : Int) ∧
    (s.lock = .locked → s.prevValid = true ∧ s.firstUpdate = false ∧ s.rateValid = true) ∧
    s.synthValid = s.rateValid ∧ (s.synthValid = true → s.synthReg = fracWord s.cfg s.fracIndex) ∧
    (s.flags.getLsbD 4 = true → s.activeSource = .internal) ∧
    (s.failed = true → s.mailbox = none ∧ s.inflight = none ∧ s.pin = .undef) ∧
    (s.prevValid = false → s.lock = .unlocked ∧ s.integ = 0)) &&
  decide (s.prevCount < s.cfg.timerMod ∧ s.dwell ≤ s.cfg.minDwell ∧ s.wdog ≤ s.cfg.refTimeoutTicks ∧
    (s.rateValid = false → s.currentRate = 0#32) ∧
    (s.rateValid = true → supported s.cfg s.currentRate.toNat) ∧
    (s.rateValid = true → s.adder = (settingsFor s.cfg s.currentRate.toNat).adder) ∧
    (s.firstUpdate = true ↔ s.lock = .unlocked)) &&
  match s.inflight with
  | none => true
  | some rem => decide (-(s.cfg.jitterTicks : Int) ≤ rem ∧ rem ≤ 2 ^ 31 - 1)

theorem tvCfg_valid : Params.tvCfg.Valid := by constructor <;> decide

theorem inv_of_check {s : State} (hc : s.cfg = Params.tvCfg) (h : invCheck s = true) :
    Inv s ∧ Bounds s := by
  simp only [invCheck, Bool.and_eq_true, decide_eq_true_eq] at h
  obtain ⟨⟨⟨a1, a2, a3, a4, a5, a6, a7, a8, a9, a10⟩, b1, b2, b3, b4, b5, b6, b7⟩, c⟩ := h
  have hr : ∀ rem, s.inflight = some rem →
      -(s.cfg.jitterTicks : Int) ≤ rem ∧ rem ≤ 2 ^ 31 - 1 := by
    intro rem hi
    simp only [hi, decide_eq_true_eq] at c
    exact c
  exact ⟨⟨hc ▸ tvCfg_valid, a1, a2, a3, a4, a5, a6, a7, a8, a9, fun r h => (hr r h).1, a10⟩,
    ⟨b1, b2, b3, fun r h => (hr r h).2, b4, b5, b6, b7⟩⟩

/-! ## WellFormed: one ill-formed term for each check -/

theorem test_wellFormed_refuses_count : wellFormed 65536 (.refev .internal .edge 65536#32) = false := by decide
theorem test_wellFormed_refuses_lock : wellFormed 65536 (.status .spdif 3#2 true 0#8 48000#32) = false := by decide
theorem test_wellFormed_refuses_unsup : wellFormed 65536 (.settings 8#16 false true 0#32) = false ∧
    wellFormed 65536 (.settings 0#16 true true 0#32) = false ∧
    wellFormed 65536 (.settings 0#16 false true 1#32) = false := by decide
theorem test_wellFormed_accepts : wellFormed 65536 (.refev .internal .edge 65535#32) = true ∧
    wellFormed 65536 (.settings 0#16 false true 0#32) = true := by decide

/-! ## Decoding: every constructor that has a word, the words written out from R85, R92, R93 (3.1) -/

theorem test_decode_selsrc : decodesTo 0x1000000200000000#64 (.selsrc .adat) = true ∧
    decodesTo 0x1000000300000000#64 (.selsrc .hostFeedback) = true := by decide
theorem test_decode_setrate : decodesTo 0x110000000000BB80#64 (.setrate 48000#32) = true := by decide
theorem test_decode_getstatus : decodesTo 0x1200000000000000#64 .getstatus = true := by decide
theorem test_decode_clrflags : decodesTo 0x13000000000000FF#64 (.clrflags 0xFF#8) = true := by decide
theorem test_decode_synget : decodesTo 0x140000000000BB80#64 (.synget 48000#32) = true := by decide
theorem test_decode_refev : decodesTo 0x2000000000000D45#64 (.refev .internal .edge 3397#32) = true ∧
    decodesTo 0x2000000600004E20#64 (.refev .adat .rateReport 20000#32) = true ∧
    decodesTo 0x200000000000FFFF#64 (.refev .internal .edge 65535#32) = true := by decide
theorem test_decode_los : decodesTo 0x2100000300000000#64 (.los .hostFeedback) = true := by decide
theorem test_decode_rateirq : decodesTo 0x300000000000AC44#64 (.rateirq 44100#32) = true := by decide
theorem test_decode_audmsg : decodesTo 0x4000000000001234#64 (.audmsg 0x1234#32) = true := by decide
theorem test_decode_pin : decodesTo 0x6000000000000000#64 .pininit = true ∧
    decodesTo 0x6100000000000000#64 .pintgl = true ∧
    decodesTo 0x62000000FFFFFFFB#64 (.pintglt (BitVec.ofInt 32 (-5))) = true ∧
    decodesTo 0x6200000080000000#64 (.pintglt 0x80000000#32) = true ∧
    decodesTo 0x7000000000000000#64 .pinfault = true := by decide
/-- SPDIF, LOCKED, rate valid, 48000 Hz (R238's example); frac 8, first 1, adder 34464 (R120's). -/
theorem test_decode_answers :
    decodesTo 0x920000190000BB80#64 (.status .spdif 2#2 true 0#8 48000#32) = true ∧
    decodesTo 0x94010008000086A0#64 (.settings 8#16 true false 34464#32) = true := by decide
theorem test_decode_rejects :
    rejects 0x1000000400000000#64 .reservedBits = true ∧ rejects 0x1000000000000001#64 .reservedBits = true ∧
    rejects 0x110000010000BB80#64 .reservedBits = true ∧ rejects 0x13000000000001FF#64 .reservedBits = true ∧
    rejects 0x2000000800000000#64 .reservedBits = true ∧ rejects 0x6200000100000064#64 .reservedBits = true ∧
    rejects 0x1500000000000000#64 .unassignedOpcode = true ∧
    rejects 0x0000000000000000#64 .unassignedOpcode = true ∧
    rejects 0xFFFFFFFFFFFFFFFF#64 .unassignedOpcode = true ∧
    rejects 0x2000000000010000#64 .countOutOfRange = true := by decide
/-- The internal steps and RESET have no word (R94). -/
theorem test_encode_none : [Instr.timeout, .note, .paccept, .pflip, .tick, .reset].map encode =
    [none, none, none, none, none, none] := by decide
theorem test_decodeTableWord : decodeTableWord 64 0x1000000100000000 = some (.selsrc .spdif) := by decide
theorem test_withFetchWord : (State.reset.withFetchWord 64 0x6000000000000000).schedule =
    [.word 0x6000000000000000#64] ∧
    gives (step (State.reset.withFetchWord 64 0x6000000000000000)) (fun t => t.mailbox == some .init) = true := by
  decide
/-- The text of R99. -/
theorem test_messageText : messageText (.refev .adat .rateReport 20000#32) = some "REFEV ADAT, RATE, 20000" ∧
    messageText (.pintglt (BitVec.ofInt 32 (-5))) = some "PINTGLT -5" := by decide

/-! ## Arithmetic and stages (3.2 to 3.7) -/

theorem test_wsub : wsub 65536 4 65530 = 10 ∧ wsub 65536 0 65535 = 1 ∧ wsub 65536 65535 0 = 65535 := by decide
theorem test_sres : sres 65536 32767 = 32767 ∧ sres 65536 32768 = -32768 ∧ sres 65536 65535 = -1 ∧
    [0, 1, 2, 3, 4].map (sres 5) = [0, 1, 2, -2, -1] := by decide
theorem test_floorShift : floorShift (-1) 4 = -1 ∧ floorShift (-45) 4 = -3 := by decide
theorem test_adder : [44100, 48000, 88200, 192000, 7056000, 4294944000].map
    (fun f => (settingsFor Params.tvCfg f).adder) = [43308, 34464, 54422, 25000, 680, 1] := by decide
theorem test_unsupported : [0, 1, 8000, 32000, 44101, 47999, 4294967295].map
    (fun f => (computeSettings Params.tvCfg f).isNone) = [true, true, true, true, true, true, true] := by decide
theorem test_rateFamily : rateFamily 7056000 = .f48 ∧ rateFamily 88200 = .f441 := by decide
theorem test_errorSample : errorSample 65536 34463 65535 34464 = 0 ∧ errorSample 65536 4 65530 34464 = 31082 ∧
    errorSample 65536 1695 0 34464 = 32767 ∧ errorSample 65536 1696 0 34464 = -32768 := by decide
theorem test_piStage : (piStage (-5) rated).2 = -3 ∧ (piStage 9 rated).2 = 4 ∧
    (piStage 1 { rated with integ := -20 }).2 = -1 ∧
    (piStage 10 { rated with integ := 2147483640 }).1.integ = 2147483647 := by decide
theorem test_applyUpdate : (applyUpdate (-4) rated).fracIndex = 4 ∧
    (applyUpdate (-4) { rated with firstUpdate := false, fracIndex := 4 }).fracIndex = 3 ∧
    (applyUpdate 4 { rated with fracIndex := 15 }).fracIndex = 15 ∧
    (applyUpdate (-1) { rated with firstUpdate := false, fracIndex := 0 }).fracIndex = 0 := by decide
theorem test_lockStage : (lockStage 3 { rated with lock := .acquiring, dwell := 7 }).lock = .locked ∧
    (lockStage 4 { rated with lock := .acquiring, dwell := 3 }).dwell = 0 ∧
    (lockStage 16 (lockedOn .spdif)).lock = .locked ∧
    (lockStage 17 (lockedOn .spdif)).lock = .acquiring := by decide

/-! ## Instructions (3.8 to 3.13) -/

theorem test_selsrc_switches : gives (exec (.selsrc .adat) (lockedOn .spdif)) (fun t =>
    t.activeSource == .adat && t.lock == .unlocked && t.firstUpdate && !t.prevValid && t.adder == 34464
      && t.fracIndex == 8) = true := by decide
theorem test_selsrc_refused : gives (exec (.selsrc .adat) { rated with flags := 0x90#8 })
    (fun t => t.flags == 0xD0#8 && t.activeSource == .internal) = true := by decide
theorem test_setrate : gives (exec (.setrate 48000#32) State.reset) (fun t =>
    t.currentRate == 48000#32 && t.rateValid && t.adder == 34464 && t.synthReg == 8#32 && t.synthValid) = true := by
  decide
theorem test_setrate_unsupported : gives (exec (.setrate 32000#32) rated)
    (fun t => t.flags == 0x01#8 && t.currentRate == 48000#32 && t.adder == 34464) = true := by decide
theorem test_rateirq : gives (exec (.rateirq 44100#32) (lockedOn .spdif))
    (fun t => t.currentRate == 44100#32 && t.adder == 43308 && t.lock == .unlocked
      && t.activeSource == .spdif) = true := by decide
theorem test_los : gives (exec (.los .adat) (lockedOn .adat))
    (fun t => t.activeSource == .internal && t.flags == 0xA0#8 && t.currentRate == 48000#32) = true := by decide
theorem test_los_other : gives (exec (.los .spdif) (lockedOn .adat))
    (fun t => t.activeSource == .adat && t.flags == 0#8 && t.lock == .locked) = true := by decide
theorem test_getstatus : gives (exec .getstatus (lockedOn .spdif))
    (fun t => t.outbox == [0x920000190000BB80#64]) = true := by decide
theorem test_clrflags : gives (exec (.clrflags 0xFF#8) { rated with flags := 0xB2#8 })
    (fun t => t.flags == 0x10#8) = true ∧
    gives (exec (.clrflags 0x02#8) { rated with flags := 0xB2#8 }) (fun t => t.flags == 0xB0#8) = true := by decide
theorem test_synget : gives (exec (.synget 48000#32) State.reset)
    (fun t => t.outbox == [0x94010008000086A0#64]) = true ∧
    gives (exec (.synget 32000#32) State.reset)
      (fun t => t.outbox == [0x9402000000000000#64] && t.flags == 0#8) = true := by decide
theorem test_audmsg : gives (exec (.audmsg 0x1234#32) (lockedOn .spdif))
    (fun t => t.lock == .locked && t.flags == 0#8) = true := by decide
/-- The example of R150. -/
theorem test_refev_sample : gives (exec (.refev .internal .edge 3397#32) (primed 34464)) (fun t =>
    t.integ == 5 && t.fracIndex == 10 && !t.firstUpdate && t.lock == .acquiring && t.prevCount == 3397
      && t.synthReg == 10#32) = true := by decide
theorem test_refev_stall : gives (exec (.refev .internal .rateReport 100#32) { primed 100 with wdog := 5 })
    (fun t => t.flags == 0x08#8 && t.wdog == 0 && t.firstUpdate && t.lock == .unlocked) = true := by decide
theorem test_timeout : gives (exec .timeout { lockedOn .adat with wdog := 1000000 })
    (fun t => t.flags == 0x82#8 && t.activeSource == .internal && t.lock == .unlocked && t.wdog == 0) = true ∧
    refuses (exec .timeout { lockedOn .adat with wdog := 999999 }) .timeout = true := by decide
theorem test_note : gives (exec .note { lockedOn .hostFeedback with noteMissed := true, noteHardFail := true })
    (fun t => t.flags == 0x94#8 && t.activeSource == .internal && !t.noteMissed && !t.noteHardFail) = true ∧
    gives (exec .note { State.reset with noteHardFail := true }) (fun t => t.flags == 0x10#8) = true := by decide
theorem test_pin_delivery : gives (exec (.pintglt 50#32) (flying 90))
    (fun t => t.mailbox == some (.timed 50#32) && t.inflight == some 90) = true ∧
    gives (exec .pintgl { flying 90 with mailbox := some (.timed 50#32) })
      (fun t => t.mailbox == some .immediate) = true ∧
    gives (exec .pininit broken) (fun t => t.mailbox == none) = true := by decide
theorem test_paccept : gives (exec .paccept (waiting (.timed 0xFFFFFFFF#32)))
    (fun t => t.inflight == some 0 && t.noteMissed && t.mailbox == none) = true ∧
    gives (exec .paccept (waiting (.timed 0#32))) (fun t => t.inflight == some 0 && !t.noteMissed) = true := by decide
theorem test_pflip : gives (exec .pflip (flying 2)) (fun t => t.pin == .high && t.inflight == none) = true ∧
    refuses (exec .pflip (flying 3)) .pflip = true := by decide
theorem test_tick : gives (exec .tick (flying (-1))) (fun t => t.inflight == some (-2) && t.wdog == 1) = true ∧
    refuses (exec .tick (flying (-2))) .tick = true ∧
    refuses (exec .tick (waiting .init)) .tick = true := by decide
theorem test_pinfault : gives (exec .pinfault { flying 40 with pin := .high, mailbox := some .immediate })
    (fun t => t.failed && t.noteHardFail && t.mailbox == none && t.inflight == none && t.pin == .undef) = true := by
  decide
theorem test_answers_as_input : gives (exec (.status .internal 0#2 false 0#8 0#32) rated)
    (fun t => t.flags == 0x40#8 && t.outbox == []) = true ∧
    gives (exec (.settings 0#16 false false 0#32) rated) (fun t => t.flags == 0x40#8) = true := by decide
theorem test_reset : gives (exec .reset { lockedOn .spdif with flags := 0x10#8, failed := true }) (fun t =>
    t.activeSource == .internal && !t.rateValid && t.flags == 0#8 && t.lock == .unlocked && t.fracIndex == 8
      && !t.failed && t.firstUpdate) = true := by decide
/-- From reset, `0x15000000_00000000` then GETSTATUS (3.1). -/
theorem test_step_illegal : gives (step { State.reset with schedule := [.word 0x1500000000000000#64] })
    (fun t => t.flags == 0x40#8 && t.schedule == []) = true ∧
    gives (step { State.reset with schedule := [.word 0x6000000000000001#64] })
      (fun t => t.flags == 0#8 && t.mailbox == none) = true := by decide
/-- Nothing scheduled after reset: the one enabled step is TICK. -/
theorem test_step_idle : gives (step State.reset) (fun t => t.now == 1 && t.wdog == 1) = true := by decide
/-- A NOTE that is due comes before the word that waits; with patience left the word comes first (R70, R271). -/
theorem test_step_due : gives (step { noting 0 with schedule := [.word 0x1200000000000000#64] })
    (fun t => t.flags == 0x04#8 && !t.noteMissed && t.owed == [] && t.schedule.length == 1) = true ∧
    gives (step { noting 1 with schedule := [.word 0x1200000000000000#64] })
      (fun t => t.noteMissed && t.owed == [.note] && t.patience == 0 && t.outbox.length == 1) = true := by decide
theorem test_programEvents : programEvents [.message .pininit, .ticks 2, .perform .note] =
    [.word 0x6000000000000000#64, .internal .tick, .internal .tick, .internal .note] := by decide

/-! ## Witnesses: the hypotheses of the statements, met by concrete states and operands -/

theorem reset_inv : Inv State.reset ∧ Bounds State.reset := inv_of_check rfl (by decide)
theorem rated_inv : Inv rated ∧ Bounds rated := inv_of_check rfl (by decide)
theorem primed_inv : Inv (primed 34464) ∧ Bounds (primed 34464) := inv_of_check rfl (by decide)
theorem lockedOn_inv (src : ClockSource) : Inv (lockedOn src) ∧ Bounds (lockedOn src) :=
  inv_of_check rfl (by cases src <;> decide)
theorem flying_inv : Inv (flying (-2)) ∧ Bounds (flying (-2)) := inv_of_check rfl (by decide)
theorem broken_inv : Inv { broken with pin := .undef } ∧ Bounds { broken with pin := .undef } :=
  inv_of_check rfl (by decide)

theorem witness_DecodeOfEncodeIsIdentity :
    wellFormed 65536 (.refev .hostFeedback .rateReport 65535#32) = true ∧
    encode (.refev .hostFeedback .rateReport 65535#32) = some 0x200000070000FFFF#64 ∧
    wellFormed 65536 (.settings 8#16 true false 34464#32) = true ∧
    encode (.settings 8#16 true false 34464#32) = some 0x94010008000086A0#64 := by decide
theorem witness_EncodeOfDecodeIsIdentity :
    decode 65536 0x920000190000BB80#64 = .ok (.status .spdif 2#2 true 0#8 48000#32) := by decide
theorem witness_MessagesAreTheOpcodeMapRows :
    decode 65536 0x200000000000FFFF#64 = .ok (.refev .internal .edge 65535#32) ∧
    (Instr.refev .internal .edge 65535#32).isMessage = true ∧
    (⟨.refev, 0x2000000000000000#64, 0xFFFFFFF800000000#64⟩ : MapRow) ∈ opcodeMap ∧
    (⟨.refev, 0x2000000000000000#64, 0xFFFFFFF800000000#64⟩ : MapRow).matches 0x200000000000FFFF#64 = true := by
  decide
theorem witness_AtMostOneRowMatches :
    (⟨.selsrc, 0x1000000000000000#64, 0xFFFFFFFCFFFFFFFF#64⟩ : MapRow) ∈ opcodeMap ∧
    (⟨.selsrc, 0x1000000000000000#64, 0xFFFFFFFCFFFFFFFF#64⟩ : MapRow).matches 0x1000000300000000#64 = true := by
  decide
theorem witness_StepRunsWhatIsTaken :
    (dueStep { rated with schedule := [.word 0x1200000000000000#64] } = none ∧
      decode 65536 0x1200000000000000#64 = .ok .getstatus) ∧
    dueStep { flying (-2) with schedule := [.internal .pflip] } = none ∧ dueStep (noting 0) = some .note := by
  decide
/-- Ports 7 and 6 (dropped), 0, 15, an output word on port 9, and a count of TIMER_MOD (raised). -/
theorem witness_IllegalWordsAreRaisedOrDropped :
    dueStep { rated with schedule := [.word 0x7100000000000000#64] } = none ∧
    (∀ r ∈ opcodeMap, r.matches 0x7100000000000000#64 = false) ∧
    (∀ r ∈ opcodeMap, r.matches 0x6300000000000000#64 = false) ∧
    (∀ r ∈ opcodeMap, r.matches 0x0000000000000000#64 = false) ∧
    (∀ r ∈ opcodeMap, r.matches 0xFFFFFFFFFFFFFFFF#64 = false) ∧
    (∀ r ∈ opcodeMap, r.matches 0x9200000000000000#64 = false) ∧
    (∀ r ∈ opcodeMap, r.matches 0x2000000000010000#64 = true →
      r.opcode = .refev ∧ 65536 ≤ (BitVec.extractLsb' 0 32 0x2000000000010000#64).toNat) := by decide
/-- A run: a PININIT is taken, then the NOTE that falls due, then PACCEPT, which TICK waits for, then ticks
for ever. -/
def fairRun : Nat → State
  | 0 => noting 1
  | 1 => { noting 0 with mailbox := some .init }
  | 2 => { State.reset with flags := 0x04#8, mailbox := some .init }
  | n + 3 => { State.reset with flags := 0x04#8, pin := .low, wdog := min n 1000000, now := n }

/-- Its inputs: PININIT before the first step. -/
def fairInputs : Nat → List Event
  | 0 => [.word 0x6000000000000000#64]
  | _ + 1 => []

theorem fairRun_ticks (n : Nat) :
    step (arrive [] (fairRun (n + 3))) =
      .next { fairRun (n + 3) with wdog := min (min n 1000000 + 1) 1000000, now := n + 1 } := rfl
theorem fairRun_isRun : IsRun fairInputs fairRun := by
  intro n
  match n with
  | 0 => rfl
  | 1 => rfl
  | 2 => rfl
  | n + 3 =>
    have h : min (min n 1000000 + 1) 1000000 = min (n + 1) 1000000 := by omega
    exact (fairRun_ticks n).trans (by rw [h]; rfl)
theorem witness_EveryRunIsFair :
    IsRun fairInputs fairRun ∧ InternalStep.tick ∈ ownSteps ∧
    (arrive (fairInputs 0) (fairRun 0)).schedule = [] ++ .word 0x6000000000000000#64 :: [] ∧
    noteEnabled (fairRun 0) = true := ⟨fairRun_isRun, by decide, rfl, rfl⟩
theorem witness_TimePassesInEveryPacedRun :
    IsRun fairInputs fairRun ∧ PacedRequests fairInputs fairRun ∧ Inv (fairRun 0) ∧
    deliversRequest fairInputs fairRun 0 :=
  ⟨fairRun_isRun, fun n h => absurd rfl (h (n + 3) (by omega)), (inv_of_check rfl (by decide)).1,
   _, .pininit, rfl, by decide, by decide⟩
theorem witness_IdleStepTakesAnEnabledStep :
    Inv State.reset ∧ State.reset.schedule = [] ∧ Inv (flying (-2)) ∧ (flying (-2)).schedule = [] :=
  ⟨reset_inv.1, rfl, flying_inv.1, rfl⟩
theorem witness_EveryWordIsHandled :
    ({ rated with schedule := [.word 0xFFFFFFFFFFFFFFFF#64] } : State).schedule =
      .word 0xFFFFFFFFFFFFFFFF#64 :: [] := rfl
theorem witness_InstructionsKeepTheModelsOwnFields :
    (∃ t, exec .reset (lockedOn .spdif) = .next t) ∧ (∃ t, exec .tick rated = .next t) ∧
    ∃ t, exec .getstatus rated = .next t := ⟨⟨_, rfl⟩, ⟨_, rfl⟩, ⟨_, rfl⟩⟩
theorem witness_ResetStateMeetsTheInvariants : Params.tvCfg.Valid := tvCfg_valid
theorem witness_JustAfterReset :
    (lockedOn .spdif).cfg.Valid ∧ ∃ t, exec .reset (lockedOn .spdif) = .next t := ⟨tvCfg_valid, _, rfl⟩
/-- A sample that seeds the index, and the last tick of a flip window. -/
theorem witness_StepKeepsTheInvariants :
    (∃ s t, Inv s ∧ Bounds s ∧ step s = .next t ∧ t.fracIndex = 10) ∧
    (∃ s t, Inv s ∧ Bounds s ∧ step s = .next t ∧ t.inflight = some (-2)) :=
  ⟨⟨{ primed 34464 with schedule := [.word 0x2000000000000D45#64] }, _,
      (inv_of_check rfl (by decide)).1, (inv_of_check rfl (by decide)).2, rfl, by decide⟩,
   ⟨{ flying (-1) with schedule := [.internal .tick] }, _,
      (inv_of_check rfl (by decide)).1, (inv_of_check rfl (by decide)).2, rfl, by decide⟩⟩
theorem witness_StepKeepsTheParameters : ∃ t, step State.reset = .next t := ⟨_, rfl⟩
/-- Both sides of the middle of the range, for an even and an odd modulus. -/
theorem witness_ModulusArithmetic :
    4 < 65536 ∧ 65530 < 65536 ∧ 2 * 32767 < 65536 ∧ 65536 ≤ 2 * 32768 ∧ 2 * 2 < 5 ∧ 5 ≤ 2 * 3 ∧
    sres 65536 32768 = -((65536 / 2 : Nat) : Int) ∧ sres 5 2 = (((5 - 1) / 2 : Nat) : Int) := by decide
theorem witness_ErrorSampleIsTheCentredResidue :
    2 ≤ 65536 ∧ 1696 < 65536 ∧ 0 < 65536 ∧ 34464 < 65536 ∧ errorSample 65536 1696 0 34464 = -32768 := by decide
theorem witness_ComputeSettingsFollowsItsRule :
    (1 ≤ 44100 ∧ 44100 ≤ Params.tvCfg.fMax ∧ (44100 % 48000 = 0 ∨ 44100 % 44100 = 0)) ∧
    ¬ (1 ≤ 0 ∧ 0 ≤ Params.tvCfg.fMax ∧ (0 % 48000 = 0 ∨ 0 % 44100 = 0)) ∧
    ¬ (1 ≤ 44101 ∧ 44101 ≤ Params.tvCfg.fMax ∧ (44101 % 48000 = 0 ∨ 44101 % 44100 = 0)) := by decide
theorem witness_AdderIsRoundedHalfUp : ∃ st, computeSettings Params.tvCfg 44100 = some st := ⟨_, rfl⟩
theorem witness_ApplyUpdateFollowsItsRule :
    1 ≤ rated.cfg.tableSize ∧ rated.firstUpdate = true ∧ (lockedOn .adat).firstUpdate = false := by decide
/-- The six rows, at the thresholds of TV-CFG: 3 and 4 around LOCK_THRESHOLD, 16 and 17 around
UNLOCK_THRESHOLD, dwell 6 and 7 around MIN_DWELL. -/
theorem witness_LockStageFollowsItsTable :
    1 ≤ rated.cfg.minDwell ∧ rated.lock = .unlocked ∧ 3 < rated.cfg.lockThreshold ∧
    6 + 1 < rated.cfg.minDwell ∧ rated.cfg.minDwell ≤ 7 + 1 ∧ rated.cfg.lockThreshold ≤ 4 ∧
    ({ rated with lock := .acquiring, dwell := 7 } : State).lock = .acquiring ∧
    (lockedOn .spdif).lock = .locked ∧ rated.cfg.unlockThreshold < 17 ∧ 16 ≤ rated.cfg.unlockThreshold := by decide

/-- SELSRC: an unwired source; a failed pin; the active source; a change with and without a rate. -/
theorem witness_SelsrcFollowsItsRule :
    (({ rated with cfg := { Params.tvCfg with srcPresent := 0b0001#4 } } : State).cfg.srcPresent.getLsbD
      (sourceCode .adat).toNat = false) ∧
    (broken.flags.getLsbD 4 = true ∧ ClockSource.adat ≠ .internal) ∧
    (rated.cfg.srcPresent.getLsbD (sourceCode .internal).toNat = true ∧ rated.flags.getLsbD 4 = false ∧
      ClockSource.internal = rated.activeSource) ∧
    (ClockSource.adat ≠ State.reset.activeSource ∧ State.reset.rateValid = false) ∧
    (ClockSource.adat ≠ rated.activeSource ∧ rated.rateValid = true) := by decide
/-- SETRATE and RATEIRQ: the rate in force, an unsupported one, a new one, and any while there is none. -/
theorem witness_SetrateFollowsItsRule :
    (rated.rateValid = true ∧ 48000#32 = rated.currentRate) ∧
    (32000#32 ≠ rated.currentRate ∧ ¬ supported rated.cfg (32000#32).toNat) ∧
    (44100#32 ≠ rated.currentRate ∧ supported rated.cfg (44100#32).toNat) ∧
    (State.reset.rateValid = false ∧ supported State.reset.cfg (48000#32).toNat ∧
      ¬ supported State.reset.cfg (0#32).toNat) := by decide
theorem witness_LosFollowsItsRule :
    (ClockSource.adat = (lockedOn .adat).activeSource ∧ ClockSource.adat ≠ .internal) ∧
    ClockSource.spdif ≠ (lockedOn .adat).activeSource := by decide
theorem witness_SyngetAnswersTheSettings :
    rated.cfg.Valid ∧ supported rated.cfg (48000#32).toNat ∧ ¬ supported rated.cfg (0#32).toNat :=
  ⟨tvCfg_valid, by decide, by decide⟩
/-- REFEV: another source; no rate; priming; stall; a sample. -/
theorem witness_RefevFollowsItsRule :
    ClockSource.adat ≠ rated.activeSource ∧ State.reset.rateValid = false ∧
    (ClockSource.internal = rated.activeSource ∧ rated.rateValid = true ∧ rated.prevValid = false) ∧
    ((primed 100).prevValid = true ∧ (100#32).toNat = (primed 100).prevCount) ∧
    ((3397#32).toNat ≠ (primed 34464).prevCount ∧
      (5 : Int) = sres 65536 (wsub 65536 (wsub 65536 3397 34464) 34464)) := by decide
theorem witness_TimeoutFollowsItsRule :
    ((lockedOn .adat).activeSource ≠ .internal ∧ (lockedOn .adat).rateValid = true ∧
      (lockedOn .adat).cfg.refTimeoutTicks ≤ ({ lockedOn .adat with wdog := 1000000 } : State).wdog) ∧
    rated.activeSource = .internal ∧ State.reset.rateValid = false ∧
    ({ lockedOn .adat with wdog := 999999 } : State).wdog < (lockedOn .adat).cfg.refTimeoutTicks := by decide
theorem witness_NoteFollowsItsRule :
    (let s : State := { rated with noteMissed := true }
     s.noteMissed = true ∧ s.noteHardFail = false) ∧
    (let s : State := { rated with noteHardFail := true }
     s.noteHardFail = true ∧ s.activeSource = .internal) ∧
    (let s : State := { lockedOn .spdif with noteMissed := true, noteHardFail := true }
     s.noteHardFail = true ∧ s.activeSource ≠ .internal) ∧
    (rated.noteMissed = false ∧ rated.noteHardFail = false) := by decide
theorem witness_PinRequestsAreDelivered : rated.failed = false ∧ broken.failed = true := by decide
/-- PACCEPT: each kind; offsets -1 and 0 around MIN_LEAD_TICKS; failed, busy, and nothing waiting. -/
theorem witness_PacceptFollowsItsRule :
    (∀ r ∈ [PinRequest.init, .immediate, .timed 0xFFFFFFFF#32, .timed 0#32],
      (waiting r).failed = false ∧ (waiting r).inflight = none ∧ (waiting r).mailbox = some r) ∧
    (0xFFFFFFFF#32).toInt < (rated.cfg.minLeadTicks : Int) ∧ (rated.cfg.minLeadTicks : Int) ≤ (0#32).toInt ∧
    broken.failed = true ∧ (flying 1).inflight ≠ none ∧ rated.mailbox = none := by decide
/-- PFLIP: the ends of the window (-2, 2) and the ticks beside it. -/
theorem witness_PflipFollowsItsRule :
    (∀ rem ∈ [(-2 : Int), 2], (flying rem).inflight = some rem ∧
      -((flying rem).cfg.jitterTicks : Int) ≤ rem ∧ rem ≤ ((flying rem).cfg.jitterTicks : Int)) ∧
    (3 : Int) > ((flying 3).cfg.jitterTicks : Int) ∧ (-3 : Int) < -((flying (-3)).cfg.jitterTicks : Int) ∧
    rated.inflight = none := by decide
theorem witness_TickFollowsItsRule :
    (rated.inflight = none ∧ rated.mailbox = none) ∧
    ((flying (-1)).inflight = some (-1) ∧ -((flying (-1)).cfg.jitterTicks : Int) < -1) ∧
    ((waiting .init).failed = false ∧ (waiting .init).inflight = none ∧ (waiting .init).mailbox ≠ none) ∧
    ((flying (-2)).inflight = some (-2) ∧ (-2 : Int) ≤ -((flying (-2)).cfg.jitterTicks : Int)) := by decide

theorem witness_RefevMovesTheIndexWithinBounds :
    Inv (primed 34464) ∧ (∃ t, exec (.refev .internal .edge 3397#32) (primed 34464) = .next t) ∧
    Inv (lockedOn .internal) ∧ (lockedOn .internal).firstUpdate = false :=
  ⟨primed_inv.1, ⟨_, rfl⟩, (lockedOn_inv _).1, rfl⟩
/-- The lock moves UNLOCKED to ACQUIRING, ACQUIRING to LOCKED, LOCKED to ACQUIRING, and to UNLOCKED. -/
theorem witness_LockChangesOnlyAsTabulated :
    (∃ t, exec (.refev .internal .edge 3397#32) (primed 34464) = .next t ∧ t.lock = .acquiring) ∧
    (∃ t, exec (.refev .internal .edge 34464#32) { primed 0 with lock := .acquiring, dwell := 7 } = .next t ∧
      t.lock = .locked) ∧
    (∃ t, exec (.refev .internal .edge 34481#32) (lockedOn .internal) = .next t ∧ t.lock = .acquiring) ∧
    (∃ t, exec (.selsrc .adat) (lockedOn .internal) = .next t ∧ t.lock = .unlocked) :=
  ⟨⟨_, rfl, by decide⟩, ⟨_, rfl, by decide⟩, ⟨_, rfl, by decide⟩, ⟨_, rfl, by decide⟩⟩
theorem witness_SourceChangesOnlyAsTabulated :
    (∃ t, exec (.selsrc .adat) (lockedOn .spdif) = .next t ∧ t.activeSource ≠ .spdif) ∧
    (∃ t, exec (.los .spdif) (lockedOn .spdif) = .next t ∧ t.activeSource ≠ .spdif) :=
  ⟨⟨_, rfl, by decide⟩, ⟨_, rfl, by decide⟩⟩
theorem witness_TransitionsRestartTheLoop :
    (∃ t, exec (.selsrc .adat) (lockedOn .spdif) = .next t ∧ t.activeSource ≠ (lockedOn .spdif).activeSource) ∧
    (∃ t, exec (.setrate 44100#32) rated = .next t ∧ t.currentRate ≠ rated.currentRate) ∧
    (∃ t, exec (.setrate 44100#32) State.reset = .next t ∧ t.rateValid ≠ State.reset.rateValid) :=
  ⟨⟨_, rfl, by decide⟩, ⟨_, rfl, by decide⟩, ⟨_, rfl, by decide⟩⟩
theorem witness_FlagsAreSticky :
    (∃ t, exec (.clrflags 0x02#8) { rated with flags := 0xB2#8 } = .next t ∧
      (0xB2#8).getLsbD Condition.refTimeout.code = true ∧ t.flags.getLsbD Condition.refTimeout.code = false) ∧
    (∃ t, exec .reset broken = .next t ∧ broken.flags.getLsbD Condition.hardFail.code = true ∧
      t.flags.getLsbD Condition.hardFail.code = false) :=
  ⟨⟨_, rfl, by decide⟩, ⟨_, rfl, by decide⟩⟩
/-- Each of the eight flags is raised by some step. -/
theorem witness_FlagsAreRaisedOnlyByTheirCauses :
    (∃ t, exec (.setrate 32000#32) rated = .next t ∧ t.flags.getLsbD Condition.unsupportedFreq.code = true) ∧
    (∃ t, exec .timeout { lockedOn .adat with wdog := 1000000 } = .next t ∧
      t.flags.getLsbD Condition.refTimeout.code = true ∧ t.flags.getLsbD Condition.fallback.code = true) ∧
    (∃ t, exec .note { rated with noteMissed := true, noteHardFail := true } = .next t ∧
      t.flags.getLsbD Condition.missedDeadline.code = true ∧ t.flags.getLsbD Condition.hardFail.code = true) ∧
    (∃ t, exec (.refev .internal .edge 100#32) (primed 100) = .next t ∧
      t.flags.getLsbD Condition.timerStall.code = true) ∧
    (∃ t, exec (.los .adat) (lockedOn .adat) = .next t ∧ t.flags.getLsbD Condition.los.code = true) ∧
    (∃ t, exec (.selsrc .adat) broken = .next t ∧ t.flags.getLsbD Condition.badCmd.code = true) :=
  ⟨⟨_, rfl, by decide⟩, ⟨_, rfl, by decide⟩, ⟨_, rfl, by decide⟩, ⟨_, rfl, by decide⟩, ⟨_, rfl, by decide⟩,
   ⟨_, rfl, by decide⟩⟩
/-- Steps that write the elements of the rule's rows: the settings, the sample, the watchdog, the pin. -/
theorem witness_OnlyTheListedStepsWrite :
    (∃ t, exec (.setrate 48000#32) State.reset = .next t ∧ t.adder ≠ 0 ∧ t.synthValid = true ∧
      t.currentRate ≠ 0#32) ∧
    (∃ t, exec (.refev .internal .edge 3397#32) (primed 34464) = .next t ∧ t.prevCount ≠ 34464 ∧ t.integ ≠ 0 ∧
      t.fracIndex ≠ 8) ∧
    (∃ t, exec .tick (flying 1) = .next t ∧ t.wdog ≠ 0 ∧ t.inflight ≠ some 1) ∧
    (∃ t, exec .paccept (waiting (.timed 0xFFFFFFFF#32)) = .next t ∧ t.mailbox = none ∧ t.noteMissed = true) ∧
    (∃ t, exec .pinfault (flying 1) = .next t ∧ t.failed = true ∧ t.noteHardFail = true ∧ t.pin = .undef) :=
  ⟨⟨_, rfl, by decide⟩, ⟨_, rfl, by decide⟩, ⟨_, rfl, by decide⟩, ⟨_, rfl, by decide⟩, ⟨_, rfl, by decide⟩⟩
theorem witness_AnswersGoOnlyToTheTwoReads :
    (∃ t, exec .getstatus rated = .next t) ∧ Instr.getstatus.mnemonic ∈ [Mnemonic.getstatus, .synget] ∧
    (∃ t, exec .tick rated = .next t) ∧ Instr.tick.mnemonic ∉ [Mnemonic.getstatus, .synget] :=
  ⟨⟨_, rfl⟩, by decide, ⟨_, rfl⟩, by decide⟩
theorem witness_LoopNeverTouchesThePinDriver :
    (Instr.selsrc .adat).mnemonic ∈ loopSide ∧ (∃ t, exec (.selsrc .adat) (flying 40) = .next t) :=
  ⟨by decide, _, rfl⟩
theorem witness_HardFailureLastsUntilReset :
    let s : State := { broken with pin := .undef }
    Inv s ∧ s.flags.getLsbD 4 = true ∧ Instr.reset ∉ [Instr.selsrc .adat, .clrflags 0xFF#8] ∧
    ∃ t, runInstrs [.selsrc .adat, .clrflags 0xFF#8] s = .next t :=
  ⟨broken_inv.1, by decide, by decide, _, rfl⟩
theorem witness_FailedDriverStaysFailed :
    let s : State := { broken with pin := .undef }
    Inv s ∧ s.failed = true ∧ Instr.reset ∉ [Instr.pintgl, .tick] ∧
    ∃ t, runInstrs [.pintgl, .tick] s = .next t :=
  ⟨broken_inv.1, by decide, by decide, _, rfl⟩
/-- Two states that differ in the loop alone, and a pin-side step of the first. -/
theorem witness_PinDriverIgnoresTheLoop :
    pinView (flying 1) = pinView { lockedOn .spdif with pin := .low, inflight := some 1 } ∧
    Instr.pflip.mnemonic ∈ pinSide ∧ (∃ t, exec .pflip (flying 1) = .next t) ∧
    (∃ t, exec .pflip { lockedOn .spdif with pin := .low, inflight := some 1 } = .next t) :=
  ⟨rfl, by decide, ⟨_, rfl⟩, ⟨_, rfl⟩⟩
theorem witness_UnspecifiedValuesAreNotConsulted :
    hideUnspecified State.reset = hideUnspecified { State.reset with prevCount := 77, synthReg := 5#32 } := rfl
/-- An accepted offset of 1: the window is ticks 0 to 3 (3.12); runs to both ends, and a flip there. -/
theorem witness_FlipsStayInTheirWindow :
    (waiting (.timed 1#32)).mailbox = some (.timed 1#32) ∧ PinRequest.timed 1#32 ≠ .init ∧
    ∃ t, exec .paccept (waiting (.timed 1#32)) = .next t ∧
      (∃ v, exec .pflip t = .next v ∧ v.now = 0) ∧
      ∃ u v, Instr.pflip ∉ [Instr.tick, .getstatus, .tick, .tick] ∧
        Instr.pinfault ∉ [Instr.tick, .getstatus, .tick, .tick] ∧
        Instr.reset ∉ [Instr.tick, .getstatus, .tick, .tick] ∧
        runInstrs [.tick, .getstatus, .tick, .tick] t = .next u ∧ exec .pflip u = .next v ∧ v.now = 3 :=
  ⟨rfl, by decide, _, rfl, ⟨_, rfl, rfl⟩, _, _, by decide, by decide, by decide, rfl, rfl, rfl⟩
/-- The counts of program P1, up to its tenth event. -/
theorem witness_QuietEventsReachLocked :
    rated.cfg.Valid ∧ rated.rateValid = true ∧ rated.prevValid = false ∧ rated.lock = .unlocked ∧
    quietCounts rated.cfg rated.adder
      [0x0000#32, 0x86A0#32, 0x0D40#32, 0x93E0#32, 0x1A80#32, 0xA120#32, 0x27C0#32, 0xAE60#32, 0x3500#32,
       0xBBA0#32] := by
  refine ⟨tvCfg_valid, rfl, rfl, rfl, ?_⟩
  simp only [quietCounts]
  repeat' apply And.intro
  all_goals decide
theorem witness_NoLockBeforeTheDwell :
    Inv rated ∧ rated.prevValid = false ∧
    (∃ t, runInstrs [.refev .internal .edge 0#32, .refev .internal .edge 34464#32] rated = .next t) ∧
    eventCount [.refev .internal .edge 0#32, .refev .internal .edge 34464#32] < rated.cfg.minDwell + 2 :=
  ⟨rated_inv.1, rfl, ⟨_, rfl⟩, by decide⟩

end Sys2Proof.Tests
end

section
/-! The modulus arithmetic of 00_scope.md R12: what `wsub` and `sres` return, said once, and the
obligation on them. -/

namespace Sys2Proof.Machine

/-- For a positive modulus `wsub` drops no sign: the remainder it takes is never negative. -/
theorem wsub_cast {m : Nat} (hm : 0 < m) (a b : Nat) :
    ((wsub m a b : Nat) : Int) = ((a : Int) - (b : Int)) % (m : Int) :=
  Int.toNat_of_nonneg (Int.emod_nonneg _ (by omega))

theorem wsub_lt {m : Nat} (hm : 0 < m) (a b : Nat) : wsub m a b < m := by
  have hlt : ((a : Int) - (b : Int)) % (m : Int) < m := Int.emod_lt_of_pos _ (by omega)
  rw [← wsub_cast hm] at hlt
  exact_mod_cast hlt

theorem sres_of_two_mul_lt {m r : Nat} (h : 2 * r < m) : sres m r = (r : Int) := if_pos h

theorem sres_of_le_two_mul {m r : Nat} (h : m ≤ 2 * r) : sres m r = (r : Int) - (m : Int) :=
  if_neg (by omega)

/-- The range of R12, from `-(TIMER_MOD div 2)` to `(TIMER_MOD - 1) div 2`. -/
theorem sres_mem_range {m r : Nat} (hr : r < m) :
    -((m / 2 : Nat) : Int) ≤ sres m r ∧ sres m r ≤ (((m - 1) / 2 : Nat) : Int) := by
  rcases Nat.lt_or_ge (2 * r) m with hlow | hhigh
  · rw [sres_of_two_mul_lt hlow]
    omega
  · rw [sres_of_le_two_mul hhigh]
    omega

/-- Settles O18, from the rules of `wsub` and `sres`; an operand below the modulus makes it positive. -/
theorem modulusArithmetic : Obligations.ModulusArithmetic := by
  refine ⟨fun m a b ha _ => ?_, fun m r hr => ?_, by decide⟩
  · have hm : 0 < m := Nat.zero_lt_of_lt ha
    exact ⟨wsub_cast hm a b, wsub_lt hm a b⟩
  · exact ⟨sres_of_two_mul_lt, sres_of_le_two_mul, sres_mem_range hr⟩

end Sys2Proof.Machine
end

section
/-! The element ranges and ties of 10_state.md (R24 to R38): each operation of the machine keeps them, so
every instruction does, and the obligation on the step. -/

namespace Sys2Proof.Machine

open Sys2Proof.Safety

/-! ## The shared operations -/

theorem bounds_raise (c : Condition) {s : State} (hb : Bounds s) : Bounds (raise c s) := { hb with }

/-- A switch sequence keeps the ties of R24 and R25 as long as a rate it sets is supported: `adder` is
computed for that rate in the same step. -/
theorem bounds_switchSeq {src : ClockSource} {r : Option (BitVec 32)} {s : State} (hb : Bounds s)
    (hr : ∀ rate, r = some rate → supported s.cfg rate.toNat) : Bounds (switchSeq src r s) := by
  rw [switchSeq_eq_afterSwitch]
  cases r with
  | none =>
    exact { hb with dwell_le := Nat.zero_le _, wdog_le := Nat.zero_le _, armed := iff_of_true rfl rfl }
  | some rate =>
    exact { hb with
      dwell_le := Nat.zero_le _, wdog_le := Nat.zero_le _, armed := iff_of_true rfl rfl
      noRate := nofun
      rate_supported := fun _ => hr rate rfl
      rate_adder := fun _ => rfl }

/-- A source change keeps the rate in force, which R24 says is supported. -/
theorem bounds_switchSeq_keptRate (src : ClockSource) {s : State} (hb : Bounds s) :
    Bounds (switchSeq src (keptRate s) s) := by
  refine bounds_switchSeq hb fun rate hkept => ?_
  obtain ⟨hv, rfl⟩ : s.rateValid = true ∧ s.currentRate = rate := by simpa [keptRate] using hkept
  exact hb.rate_supported hv

theorem bounds_fallBack (cause : Condition) {s : State} (hb : Bounds s) : Bounds (fallBack cause s) :=
  bounds_switchSeq_keptRate .internal (bounds_raise .fallback (bounds_raise cause hb))

theorem bounds_requestRate (freq : BitVec 32) {s : State} (hb : Bounds s) :
    Bounds (requestRate freq s) := by
  obtain ⟨-, -, h⟩ | ⟨-, -, h⟩ | ⟨-, hs, h⟩ := requestRate_cases freq s <;> rw [h]
  · exact hb
  · exact bounds_raise .unsupportedFreq hb
  · rw [← switchSeq_eq_afterSwitch]
    exact bounds_switchSeq hb fun _ hr => Option.some.inj hr ▸ hs

theorem bounds_illegalWord (w : Word) {s : State} (hb : Bounds s) : Bounds (illegalWord w s) :=
  iteInduction (fun _ => hb) fun _ => bounds_raise .badCmd hb

theorem bounds_deliver (r : PinRequest) {s : State} (hb : Bounds s) : Bounds (deliver r s) :=
  iteInduction (fun _ => hb) fun _ => { hb with }

/-! ## One reference event -/

/-- The dwell count stays within MIN_DWELL (R31, R147). -/
theorem nextDwell_le {p : Params} {dwell : Nat} (h : dwell ≤ p.minDwell) (lock : LockState) (a : Nat) :
    nextDwell p lock dwell a ≤ p.minDwell := by
  cases lock with
  | unlocked => exact Nat.zero_le _
  | acquiring => simp only [nextDwell]; split <;> omega
  | locked => simp only [nextDwell]; split <;> omega

/-- No sample leaves the loop UNLOCKED (R147). -/
theorem nextLock_ne_unlocked (p : Params) (lock : LockState) (dwell a : Nat) :
    nextLock p lock dwell a ≠ .unlocked := by
  cases lock with
  | unlocked => exact nofun
  | acquiring => simp only [nextLock]; split <;> exact nofun
  | locked => simp only [nextLock]; split <;> exact nofun

theorem bounds_takeSample {count : Nat} {s : State} (hb : Bounds s) (hc : count < s.cfg.timerMod) :
    Bounds (takeSample count s) := by
  rw [takeSample_eq]
  exact { hb with
    prevCount_lt := hc
    dwell_le := nextDwell_le hb.dwell_le ..
    armed := iff_of_false nofun fun h => nextLock_ne_unlocked _ _ _ _ h }

theorem bounds_observe {count : Nat} {s : State} (hb : Bounds s) (hc : count < s.cfg.timerMod) :
    Bounds (observe count s) := by
  have hw : Bounds { s with wdog := 0 } := { hb with wdog_le := Nat.zero_le _ }
  obtain ⟨-, h⟩ | ⟨-, -, h⟩ | ⟨-, -, h⟩ := observe_cases count s <;> rw [h]
  · exact { hw with prevCount_lt := hc }
  · exact bounds_raise .timerStall hw
  · exact bounds_takeSample hw hc

/-! ## The internal steps -/

/-- R38: a commitment is bounded by the offset's 32 bits; an immediate one starts at 0. -/
theorem bounds_commit {s : State} {rem : Int} (hb : Bounds s) (hr : rem ≤ 2 ^ 31 - 1) :
    Bounds { s with inflight := some rem } :=
  { hb with inflight_high := fun _ h => Option.some.inj h ▸ hr }

theorem offsetOf_le (off : BitVec 32) : offsetOf off ≤ 2 ^ 31 - 1 := by
  have h := BitVec.toInt_lt (x := off)
  rw [offsetOf]
  omega

theorem bounds_acceptRequest (r : PinRequest) {s : State} (hb : Bounds s) :
    Bounds (acceptRequest r s) := by
  cases r with
  | init => exact { hb with }
  | immediate => exact bounds_commit hb (by decide)
  | timed off =>
    obtain ⟨-, h⟩ | ⟨-, h⟩ := acceptTimed_cases (offsetOf off) s <;> rw [acceptRequest, h]
    · exact { bounds_commit hb (rem := 0) (by decide) with }
    · exact bounds_commit hb (offsetOf_le off)

theorem bounds_takeRequest {s : State} (hb : Bounds s) : Bounds (takeRequest s) := by
  unfold takeRequest
  split
  · exact bounds_acceptRequest _ { hb with }
  · exact hb

theorem bounds_takeMissed {s : State} (hb : Bounds s) : Bounds (takeMissed s) :=
  iteInduction (fun _ => { bounds_raise .missedDeadline hb with }) fun _ => hb

theorem bounds_takeHardFail {s : State} (hb : Bounds s) : Bounds (takeHardFail s) := by
  have hn : Bounds { s with noteHardFail := false } := { hb with }
  exact iteInduction
    (fun _ => iteInduction (fun _ => bounds_raise .hardFail hn) fun _ => bounds_fallBack .hardFail hn)
    fun _ => hb

/-- TIMEOUT keeps a valid rate in force (R152). -/
theorem bounds_timeout {s : State} (hb : Bounds s) (he : timeoutEnabled s = true) :
    Bounds (switchSeq .internal (some s.currentRate) (raise .fallback (raise .refTimeout s))) := by
  have hv : s.rateValid = true := by
    simp only [timeoutEnabled, Bool.and_eq_true] at he
    exact he.1.2
  exact bounds_switchSeq (bounds_raise _ (bounds_raise _ hb))
    fun _ hr => Option.some.inj hr ▸ hb.rate_supported hv

/-- A committed flip's countdown only falls (R196), and the watchdog saturates at its limit (R32). -/
theorem bounds_tick {s : State} (hb : Bounds s) :
    Bounds { s with
      wdog := min (s.wdog + 1) s.cfg.refTimeoutTicks
      inflight := s.inflight.map (fun rem => rem - 1)
      now := s.now + 1 } where
  __ := hb
  wdog_le := Nat.min_le_right ..
  inflight_high rem h := by
    obtain ⟨rem', hs, rfl⟩ := Option.map_eq_some_iff.mp h
    have := hb.inflight_high rem' hs
    omega

/-- RESET leaves a free `prevCount` reduced modulo TIMER_MOD, and no rate (R300). -/
theorem bounds_reset {s t : State} (hm : 0 < s.cfg.timerMod) (h : execReset s = .next t) : Bounds t := by
  cases h
  exact {
    prevCount_lt := Nat.mod_lt _ hm
    dwell_le := Nat.zero_le _
    wdog_le := Nat.zero_le _
    inflight_high := nofun
    noRate := fun _ => rfl
    rate_supported := nofun
    rate_adder := nofun
    armed := iff_of_true rfl rfl }

/-! ## Every instruction -/

/-- Every instruction keeps the ranges and ties, if the count of a REFEV is below TIMER_MOD (R88). -/
theorem exec_bounds {i : Instr} {s t : State} (h : exec i s = .next t) (hm : 0 < s.cfg.timerMod)
    (hc : ∀ src kind count, i = .refev src kind count → count.toNat < s.cfg.timerMod)
    (hb : Bounds s) : Bounds t := by
  cases i with
  | selsrc src =>
    cases h
    exact iteInduction (fun _ => bounds_raise .badCmd hb) fun _ =>
      iteInduction (fun _ => bounds_raise .badCmd hb) fun _ =>
      iteInduction (fun _ => hb) fun _ => bounds_switchSeq_keptRate src hb
  | setrate freq => cases h; exact bounds_requestRate freq hb
  | rateirq freq => cases h; exact bounds_requestRate freq hb
  | refev src kind count =>
    cases h
    exact iteInduction (fun _ => bounds_observe hb (hc src kind count rfl)) fun _ => hb
  | los => cases h; exact iteInduction (fun _ => bounds_fallBack .los hb) fun _ => hb
  | status => cases h; exact bounds_illegalWord _ hb
  | settings => cases h; exact bounds_illegalWord _ hb
  | getstatus => cases h; exact { hb with }
  | clrflags => cases h; exact { hb with }
  | synget => cases h; exact { hb with }
  | audmsg => cases h; exact hb
  | pininit => cases h; exact bounds_deliver _ hb
  | pintgl => cases h; exact bounds_deliver _ hb
  | pintglt => cases h; exact bounds_deliver _ hb
  | pinfault => cases h; exact { hb with inflight_high := nofun }
  | timeout =>
    obtain ⟨he, rfl⟩ := whenEnabled_next h
    exact bounds_timeout hb he
  | note => obtain ⟨-, rfl⟩ := whenEnabled_next h; exact bounds_takeHardFail (bounds_takeMissed hb)
  | paccept => obtain ⟨-, rfl⟩ := whenEnabled_next h; exact bounds_takeRequest hb
  | pflip => obtain ⟨-, rfl⟩ := whenEnabled_next h; exact { hb with inflight_high := nofun }
  | tick => obtain ⟨-, rfl⟩ := whenEnabled_next h; exact bounds_tick hb
  | reset => exact bounds_reset hm h

/-- Settles O16. Of the invariants only the parameters' constraint on TIMER_MOD is needed, for the free
count that RESET leaves; a word in the schedule brings a REFEV only with a count below TIMER_MOD. -/
theorem stepKeepsTheBounds : Obligations.StepKeepsTheBounds := by
  intro s t hi hb h
  have hm : 0 < s.cfg.timerMod := Nat.zero_lt_of_lt hi.params.timerMod_low
  obtain ⟨_, _, _, _, u, rfl, ⟨i, hexec, hc⟩ | ⟨w, rfl⟩⟩ := step_cases h
  · exact exec_bounds hexec hm hc { hb with }
  · exact bounds_illegalWord w { hb with }

end Sys2Proof.Machine
end

section
/-! The sticky condition register (10_state.md R33): what an update of `flags` does to one flag, which
operations clear none, and the obligation that only RESET and CLRFLAGS clear one. -/

namespace Sys2Proof.Machine

/-! ## One flag after each update of the register -/

theorem getLsbD_bit (c d : Condition) : c.bit.getLsbD d.code = decide (d = c) := by
  cases c <;> cases d <;> rfl

theorem getLsbD_setFlag (flags : BitVec 8) (c d : Condition) :
    (setFlag flags c).getLsbD d.code = (flags.getLsbD d.code || decide (d = c)) := by
  rw [setFlag, BitVec.getLsbD_or, getLsbD_bit]

/-- The bits that R240's mask `0xEF` lets through are those of every condition but HARD_FAIL. -/
theorem getLsbD_clearable (d : Condition) : (0xEF#8).getLsbD d.code = decide (d ≠ .hardFail) := by
  cases d <;> rfl

theorem getLsbD_clearFlags (flags mask : BitVec 8) (d : Condition) :
    (clearFlags flags mask).getLsbD d.code =
      (flags.getLsbD d.code && !(mask.getLsbD d.code && decide (d ≠ .hardFail))) := by
  have hlt : d.code < 8 := by cases d <;> decide
  simp only [clearFlags, BitVec.getLsbD_and, BitVec.getLsbD_not, getLsbD_clearable, hlt, decide_true,
    Bool.true_and]

/-! ## The operations that clear no flag -/

/-- No flag of `s` is cleared in `t`. -/
def KeepsFlags (s t : State) : Prop :=
  ∀ c : Condition, s.flags.getLsbD c.code = true → t.flags.getLsbD c.code = true

theorem keepsFlags_of_eq {s t : State} (h : t.flags = s.flags) : KeepsFlags s t := fun _ hs => h ▸ hs

theorem KeepsFlags.trans {s t u : State} (h : KeepsFlags s t) (k : KeepsFlags t u) : KeepsFlags s u :=
  fun c hs => k c (h c hs)

theorem keepsFlags_raise (c : Condition) (s : State) : KeepsFlags s (raise c s) := fun d hs => by
  rw [raise_flags, getLsbD_setFlag, hs, Bool.true_or]

@[simp] theorem switchSeq_flags (src : ClockSource) (r : Option (BitVec 32)) (s : State) :
    (switchSeq src r s).flags = s.flags := by cases r <;> rfl

/-- A switch after two flags are raised: TIMEOUT and every fallback (R152, R226). -/
theorem keepsFlags_flagged (c d : Condition) (src : ClockSource) (r : Option (BitVec 32)) (s : State) :
    KeepsFlags s (switchSeq src r (raise d (raise c s))) :=
  ((keepsFlags_raise c s).trans (keepsFlags_raise d _)).trans (keepsFlags_of_eq (switchSeq_flags ..))

theorem keepsFlags_fallBack (cause : Condition) (s : State) : KeepsFlags s (fallBack cause s) :=
  keepsFlags_flagged cause .fallback .internal (keptRate s) s

theorem keepsFlags_requestRate (freq : BitVec 32) (s : State) : KeepsFlags s (requestRate freq s) := by
  obtain ⟨-, -, h⟩ | ⟨-, -, h⟩ | ⟨-, -, h⟩ := requestRate_cases freq s <;> rw [h]
  · exact keepsFlags_of_eq rfl
  · exact keepsFlags_raise .unsupportedFreq s
  · exact keepsFlags_of_eq rfl

theorem keepsFlags_illegalWord (w : Word) (s : State) : KeepsFlags s (illegalWord w s) :=
  iteInduction (fun _ => keepsFlags_of_eq rfl) fun _ => keepsFlags_raise .badCmd s

theorem keepsFlags_observe (count : Nat) (s : State) : KeepsFlags s (observe count s) := by
  obtain ⟨-, h⟩ | ⟨-, -, h⟩ | ⟨-, -, h⟩ := observe_cases count s <;> rw [h]
  · exact keepsFlags_of_eq rfl
  · exact keepsFlags_raise .timerStall s
  · exact keepsFlags_of_eq rfl

@[simp] theorem deliver_flags (r : PinRequest) (s : State) : (deliver r s).flags = s.flags := by
  obtain ⟨-, h⟩ | ⟨-, h⟩ := deliver_cases r s <;> rw [h]

@[simp] theorem acceptRequest_flags (r : PinRequest) (s : State) : (acceptRequest r s).flags = s.flags := by
  cases r with
  | init => rfl
  | immediate => rfl
  | timed off =>
    obtain ⟨-, h⟩ | ⟨-, h⟩ := acceptTimed_cases (offsetOf off) s <;> rw [acceptRequest, h]

@[simp] theorem takeRequest_flags (s : State) : (takeRequest s).flags = s.flags := by
  unfold takeRequest
  split
  · exact acceptRequest_flags ..
  · rfl

theorem keepsFlags_takeMissed (s : State) : KeepsFlags s (takeMissed s) :=
  iteInduction (fun _ => keepsFlags_raise .missedDeadline s) fun _ => keepsFlags_of_eq rfl

theorem keepsFlags_takeHardFail (s : State) : KeepsFlags s (takeHardFail s) :=
  have hn : KeepsFlags s { s with noteHardFail := false } := keepsFlags_of_eq rfl
  iteInduction
    (fun _ => iteInduction (fun _ => hn.trans (keepsFlags_raise .hardFail _))
      fun _ => hn.trans (keepsFlags_fallBack .hardFail _))
    fun _ => keepsFlags_of_eq rfl

/-! ## Every instruction -/

/-- RESET and CLRFLAGS apart, no instruction clears a flag. -/
theorem exec_keepsFlags {i : Instr} {s t : State} (h : exec i s = .next t) (hreset : i ≠ .reset)
    (hclr : ∀ mask, i ≠ .clrflags mask) : KeepsFlags s t := by
  have same : KeepsFlags s s := keepsFlags_of_eq rfl
  cases i with
  | reset => exact absurd rfl hreset
  | clrflags mask => exact absurd rfl (hclr mask)
  | selsrc src =>
    cases h
    exact iteInduction (fun _ => keepsFlags_raise .badCmd s) fun _ =>
      iteInduction (fun _ => keepsFlags_raise .badCmd s) fun _ =>
      iteInduction (fun _ => same) fun _ => keepsFlags_of_eq (switchSeq_flags ..)
  | setrate freq => cases h; exact keepsFlags_requestRate freq s
  | rateirq freq => cases h; exact keepsFlags_requestRate freq s
  | refev => cases h; exact iteInduction (fun _ => keepsFlags_observe _ s) fun _ => same
  | los => cases h; exact iteInduction (fun _ => keepsFlags_fallBack .los s) fun _ => same
  | status => cases h; exact keepsFlags_illegalWord _ s
  | settings => cases h; exact keepsFlags_illegalWord _ s
  | getstatus => cases h; exact keepsFlags_of_eq rfl
  | synget => cases h; exact keepsFlags_of_eq rfl
  | audmsg => cases h; exact same
  | pininit => cases h; exact keepsFlags_of_eq (deliver_flags ..)
  | pintgl => cases h; exact keepsFlags_of_eq (deliver_flags ..)
  | pintglt => cases h; exact keepsFlags_of_eq (deliver_flags ..)
  | pinfault => cases h; exact keepsFlags_of_eq rfl
  | timeout => obtain ⟨-, rfl⟩ := whenEnabled_next h; exact keepsFlags_flagged _ _ _ _ s
  | note =>
    obtain ⟨-, rfl⟩ := whenEnabled_next h
    exact (keepsFlags_takeMissed s).trans (keepsFlags_takeHardFail _)
  | paccept => obtain ⟨-, rfl⟩ := whenEnabled_next h; exact keepsFlags_of_eq (takeRequest_flags s)
  | pflip => obtain ⟨-, rfl⟩ := whenEnabled_next h; exact keepsFlags_of_eq rfl
  | tick => obtain ⟨-, rfl⟩ := whenEnabled_next h; exact keepsFlags_of_eq rfl

/-- Settles O49: a flag that was cleared was not kept, and CLRFLAGS clears a flag exactly where its mask
has the bit and the flag is not HARD_FAIL (R240). -/
theorem flagsAreSticky : Obligations.FlagsAreSticky := by
  intro i s t c h hs ht
  by_cases hreset : i = .reset
  · exact .inl hreset
  by_cases hclr : ∃ mask, i = .clrflags mask
  · obtain ⟨mask, rfl⟩ := hclr
    cases h
    rw [getLsbD_clearFlags, hs] at ht
    exact .inr ⟨mask, rfl, by simpa using ht⟩
  · have hkept := exec_keepsFlags h hreset (not_exists.mp hclr) c hs
    rw [ht] at hkept
    cases hkept

end Sys2Proof.Machine
end

section
/-! What the control-loop domain leaves of the pin side (42_pin_driver.md section 5): its operations write
no element of it, its instructions but NOTE none either, and NOTE clears the two notifications alone; and
the obligation on the pin, the mailbox, the committed flip and the failure. -/

namespace Sys2Proof.Machine

open Sys2Proof.Safety

/-! ## The operations of the loop -/

@[simp] theorem pinView_raise (c : Condition) (s : State) : pinView (raise c s) = pinView s := rfl

@[simp] theorem pinView_switchSeq (src : ClockSource) (r : Option (BitVec 32)) (s : State) :
    pinView (switchSeq src r s) = pinView s := by cases r <;> rfl

@[simp] theorem pinView_fallBack (cause : Condition) (s : State) :
    pinView (fallBack cause s) = pinView s := pinView_switchSeq ..

@[simp] theorem pinView_requestRate (freq : BitVec 32) (s : State) :
    pinView (requestRate freq s) = pinView s := by
  obtain ⟨-, -, h⟩ | ⟨-, -, h⟩ | ⟨-, -, h⟩ := requestRate_cases freq s <;> rw [h] <;> rfl

@[simp] theorem pinView_observe (count : Nat) (s : State) : pinView (observe count s) = pinView s := by
  obtain ⟨-, h⟩ | ⟨-, -, h⟩ | ⟨-, -, h⟩ := observe_cases count s <;> rw [h] <;> rfl

@[simp] theorem pinView_illegalWord (w : Word) (s : State) : pinView (illegalWord w s) = pinView s := by
  obtain ⟨-, h⟩ | ⟨-, h⟩ := illegalWord_cases w s <;> rw [h]; rfl

theorem pinView_takeMissed (s : State) :
    pinView (takeMissed s) = { pinView s with noteMissed := false } := by
  cases h : s.noteMissed <;> simp [takeMissed, h, pinView]

theorem pinView_takeHardFail (s : State) :
    pinView (takeHardFail s) = { pinView s with noteHardFail := false } := by
  unfold takeHardFail
  split
  · split
    · rfl
    · rw [pinView_fallBack]; rfl
  · simp_all [pinView]

/-! ## The instructions of the loop -/

/-- NOTE consumes both notifications and leaves the rest of the pin side (R244). -/
theorem pinView_note {s t : State} (h : exec .note s = .next t) :
    pinView t = { pinView s with noteMissed := false, noteHardFail := false } := by
  obtain ⟨-, rfl⟩ := whenEnabled_next h
  rw [pinView_takeHardFail, pinView_takeMissed]

/-- Every other instruction of the control-loop domain leaves the whole pin side. -/
theorem pinView_exec_loop {i : Instr} {s t : State} (hl : i.mnemonic ∈ loopSide) (hn : i ≠ .note)
    (h : exec i s = .next t) : pinView t = pinView s := by
  cases i with
  | selsrc src =>
    cases h
    simp only [apply_ite pinView, pinView_raise, pinView_switchSeq, ite_self]
  | setrate freq => cases h; exact pinView_requestRate freq s
  | rateirq freq => cases h; exact pinView_requestRate freq s
  | refev => cases h; simp only [apply_ite pinView, pinView_observe, ite_self]
  | los => cases h; simp only [apply_ite pinView, pinView_fallBack, ite_self]
  | timeout => obtain ⟨-, rfl⟩ := whenEnabled_next h; exact pinView_switchSeq ..
  | status => cases h; exact pinView_illegalWord _ s
  | settings => cases h; exact pinView_illegalWord _ s
  | getstatus => cases h; rfl
  | clrflags => cases h; rfl
  | synget => cases h; rfl
  | audmsg => cases h; rfl
  | note => exact absurd rfl hn
  | pininit | pintgl | pintglt | pinfault | paccept | pflip | tick | reset =>
    simp [Instr.mnemonic, loopSide] at hl

/-- No instruction of the loop changes more of the pin side than the notifications. -/
theorem pinView_exec_loop_notes {i : Instr} {s t : State} (hl : i.mnemonic ∈ loopSide)
    (h : exec i s = .next t) :
    ∃ missed hard, pinView t = { pinView s with noteMissed := missed, noteHardFail := hard } := by
  by_cases hn : i = .note
  · subst hn
    exact ⟨_, _, pinView_note h⟩
  · exact ⟨_, _, pinView_exec_loop hl hn h⟩

/-- Settles O53: the four elements are components of the pin side other than the notifications. -/
theorem loopNeverTouchesThePinDriver : Obligations.LoopNeverTouchesThePinDriver := by
  intro i s t hl h
  obtain ⟨_, _, hv⟩ := pinView_exec_loop_notes hl h
  exact ⟨congrArg (·.pin) hv, congrArg (·.mailbox) hv, congrArg (·.inflight) hv, congrArg (·.failed) hv⟩

end Sys2Proof.Machine
end

section
/-! An idle step (20_memory.md R67): under the invariants some own step is always enabled, and with an empty
schedule one is taken and completes; and the obligation that says so. -/

namespace Sys2Proof.Machine

open Sys2Proof.Safety

/-- Time passes unless a request can be accepted or the flip window closes, and at its last tick the flip
is enabled (R196, R192): this is where the invariant's lower bound on the countdown is needed. -/
theorem enabledSteps_ne_nil {s : State} (hi : Inv s) : enabledSteps s ≠ [] := by
  suffices ∃ k ∈ ownSteps, stepEnabled s k = true by
    obtain ⟨k, hown, hk⟩ := this
    exact List.ne_nil_of_mem (mem_enabledSteps.mpr ⟨hown, hk⟩)
  by_cases ha : pacceptEnabled s = true
  · exact ⟨.paccept, by decide, ha⟩
  by_cases hw : windowOpen s = true
  · exact ⟨.tick, by decide, by simp [stepEnabled, tickEnabled, ha, hw]⟩
  refine ⟨.pflip, by decide, ?_⟩
  cases hf : s.inflight with
  | none => simp [windowOpen, hf] at hw
  | some rem =>
    have hlow := hi.inflight_low rem hf
    simp only [windowOpen, hf, decide_eq_true_eq] at hw
    simp only [stepEnabled, pflipEnabled, hf, Bool.and_eq_true, decide_eq_true_eq]
    omega

/-- A free turn draws at most one free value: the patience of the round it opens. -/
theorem passTurn_freeCount_bounds (s : State) :
    s.freeCount ≤ (passTurn s).freeCount ∧ (passTurn s).freeCount ≤ s.freeCount + 1 := by
  rw [passTurn_freeCount]
  split <;> omega

/-- The step that takes an internal step runs its instruction, with one copy of it owed no longer. -/
theorem step_of_take_internal {s u : State} {k : InternalStep} (h : take s = some (.internal k, u)) :
    step s = exec k.instr { u with owed := u.owed.erase k } := by
  simp only [step, fetch, h, fetchEvent]

theorem taken_of_take {s u : State} {e : Event} (h : take s = some (e, u)) : taken s = some e := by
  rw [taken, h, Option.map_some]

/-- With nothing scheduled and some own step enabled, an enabled one is taken, and at most two free values
are drawn: the patience of a new round and the choice. -/
theorem take_idle {s : State} (hs : s.schedule = []) (he : enabledSteps s ≠ []) :
    ∃ k ∈ enabledSteps s, ∃ owed patience n, s.freeCount ≤ n ∧ n ≤ s.freeCount + 2 ∧
      take s = some (.internal k, { s with owed := owed, patience := patience, freeCount := n }) := by
  obtain ⟨hlow, hhigh⟩ := passTurn_freeCount_bounds s
  obtain ⟨k, hd, ht⟩ | ⟨-, e, rest, hcons, -⟩ | ⟨-, -, hnil, -⟩ | ⟨-, -, k, hk, n, hn, hn', ht⟩ :=
    take_cases s
  · exact ⟨k, mem_enabledSteps_of_due hd, _, _, _, Nat.le_refl _, Nat.le_add_right _ _, ht⟩
  · rw [hs] at hcons; cases hcons
  · exact absurd hnil he
  · exact ⟨k, hk, _, _, n, by omega, by omega, ht⟩

/-- Settles O9: the step taken is enabled, and the fields of the turn are read by no enabling condition, so
it completes. -/
theorem idleStepTakesAnEnabledStep : Obligations.IdleStepTakesAnEnabledStep := by
  intro s hi hs
  obtain ⟨k, hk, owed, patience, n, hlow, hhigh, ht⟩ := take_idle hs (enabledSteps_ne_nil hi)
  obtain ⟨hown, hen⟩ := mem_enabledSteps.mp hk
  have hstep := step_of_take_internal ht
  have hen' : stepEnabled
      { s with owed := owed.erase k, patience := patience, freeCount := n } k = true := by
    cases k <;> exact hen
  obtain ⟨t, hexec⟩ := exec_of_enabled hen'
  exact ⟨k, owed.erase k, patience, n, t, hown, hen, hlow, hhigh, taken_of_take ht, hstep,
    hstep.trans hexec⟩

end Sys2Proof.Machine
end

section
/-! Fairness of every run (20_memory.md R67, R70, 60_exceptions.md R271; log 4): what a step does to the
round, why the wait for an own step and for an event in the schedule comes to an end, why a notification
waits until it is taken or reset; and the obligation that says so. -/

namespace Sys2Proof.Machine

open Sys2Proof.Safety

/-! ## What a step does to the round -/

theorem taken_due {s : State} {k : InternalStep} (hd : dueStep s = some k) :
    taken s = some (.internal k) := by
  simp only [taken, take, hd, Option.map_some]

/-- A step that takes a due step leaves the schedule and the patience, and owes one step less. -/
theorem step_due {s t : State} {k : InternalStep} (hd : dueStep s = some k) (h : step s = .next t) :
    t.owed = (stillOwed s).erase k ∧ t.patience = s.patience ∧ t.schedule = s.schedule := by
  simp only [step, fetch_due hd] at h
  exact exec_sameTurn h

/-- A step with nothing due takes an event on a free turn. -/
theorem step_free {s t : State} (hd : dueStep s = none) (h : step s = .next t) :
    ∃ e, taken s = some e ∧ t.owed = owedAfter e (passTurn s).owed ∧
      t.patience = (passTurn s).patience := by
  obtain ⟨e, u, ht, howed, hpat, -⟩ := step_take h
  refine ⟨e, taken_of_take ht, ?_⟩
  obtain ⟨k, hk, -⟩ | ⟨-, _, _, -, h'⟩ | ⟨-, -, -, h'⟩ | ⟨-, -, _, -, _, -, -, h'⟩ := take_cases s
  · rw [hd] at hk; cases hk
  · rw [ht] at h'; cases h'; exact ⟨howed, hpat⟩
  · rw [ht] at h'; cases h'
  · rw [ht] at h'; cases h'; exact ⟨howed, hpat⟩

/-- With nothing due the head of a schedule is taken, and the rest waits on. -/
theorem step_head {s t : State} {e : Event} {rest : List Event} (hd : dueStep s = none)
    (hs : s.schedule = e :: rest) (h : step s = .next t) :
    taken s = some e ∧ t.schedule = rest := by
  have htake : take s = some (e, { passTurn s with schedule := rest }) := by
    simp only [take, hd, takeFree, passTurn_schedule, hs]
  obtain ⟨e', u, ht, -, -, hsched⟩ := step_take h
  rw [htake] at ht
  cases ht
  exact ⟨taken_of_take htake, hsched⟩

/-- Taking a due step shortens what is owed. -/
theorem length_owed_lt_of_due {s t : State} {k : InternalStep} (hd : dueStep s = some k)
    (h : step s = .next t) : t.owed.length < s.owed.length := by
  have hmem := (dueStep_some hd).2
  have hle : (stillOwed s).length ≤ s.owed.length := List.length_filter_le ..
  have hpos := List.length_pos_of_mem hmem
  rw [(step_due hd h).1, List.length_erase_of_mem hmem]
  omega

/-! ## An own step that stays enabled -/

/-- How far the block is from taking `k`: whether a round has still to open before `k` is owed, then the
patience left, then the steps owed. -/
def waitRank (k : InternalStep) (s : State) : Nat ×ₗ Nat ×ₗ Nat :=
  toLex (if k ∈ s.owed then 0 else 1, toLex (s.patience, s.owed.length))

@[simp] theorem waitRank_arrive (k : InternalStep) (es : List Event) (s : State) :
    waitRank k (arrive es s) = waitRank k s := rfl

/-- The rank falls when the round goes on with `k` as much owed as before. -/
theorem waitRank_lt_of_turn {k : InternalStep} {s t : State} (hk : k ∈ s.owed → k ∈ t.owed)
    (h : t.patience < s.patience ∨ t.patience = s.patience ∧ t.owed.length < s.owed.length) :
    waitRank k t < waitRank k s := by
  rw [waitRank, waitRank, Prod.Lex.toLex_lt_toLex, Prod.Lex.toLex_lt_toLex]
  by_cases hs : k ∈ s.owed
  · exact .inr ⟨by rw [if_pos hs, if_pos (hk hs)], h⟩
  · by_cases ht : k ∈ t.owed
    · exact .inl (by rw [if_pos ht, if_neg hs]; exact Nat.one_pos)
    · exact .inr ⟨by rw [if_neg hs, if_neg ht], h⟩

/-- The rank falls when a round opens in which `k` is owed. -/
theorem waitRank_lt_of_round {k : InternalStep} {s t : State} (hs : k ∉ s.owed) (ht : k ∈ t.owed) :
    waitRank k t < waitRank k s := by
  rw [waitRank, waitRank, Prod.Lex.toLex_lt_toLex, if_pos ht, if_neg hs]
  exact .inl Nat.one_pos

theorem mem_owedAfter {k : InternalStep} {e : Event} {owed : List InternalStep} (hk : k ∈ owed)
    (he : e ≠ .internal k) : k ∈ owedAfter e owed := by
  cases e with
  | word w => exact hk
  | internal j => exact (List.mem_erase_of_ne fun hj => he (congrArg Event.internal hj.symm)).mpr hk

/-- When no round opens although the patience is used up, the one enabled step is the one taken. -/
theorem taken_of_round_closed {s : State} {k : InternalStep} (hp : s.patience = 0)
    (hr : roundOpens s = false) (hk : k ∈ enabledSteps s) :
    taken s = some (.internal k) := by
  have hclosed : s.schedule = [] ∧ (enabledSteps s).length ≤ 1 := by
    simpa [roundOpens, hp] using hr
  obtain ⟨hs, hlen⟩ := hclosed
  obtain ⟨j, hj, _, _, _, -, -, ht⟩ := take_idle hs (List.ne_nil_of_mem hk)
  obtain ⟨a, ha⟩ := List.length_eq_one_iff.mp (Nat.le_antisymm hlen (List.length_pos_of_mem hk))
  rw [ha, List.mem_singleton] at hk hj
  rw [taken_of_take ht, hj, hk]

/-- Each step that passes over an enabled own step brings the block nearer to taking it. -/
theorem waitRank_step_lt {s t : State} {k : InternalStep} (hk : k ∈ enabledSteps s)
    (hn : taken s ≠ some (.internal k)) (h : step s = .next t) : waitRank k t < waitRank k s := by
  cases hd : dueStep s with
  | some j =>
    obtain ⟨howed, hpat, -⟩ := step_due hd h
    have hne : k ≠ j := by rintro rfl; exact hn (taken_due hd)
    refine waitRank_lt_of_turn (fun hs => ?_) (.inr ⟨hpat, length_owed_lt_of_due hd h⟩)
    rw [howed]
    exact (List.mem_erase_of_ne hne).mpr (mem_stillOwed.mpr ⟨hs, hk⟩)
  | none =>
    obtain ⟨e, he, howed, hpat⟩ := step_free hd h
    have hne : e ≠ .internal k := by rintro rfl; exact hn he
    rw [passTurn_owed] at howed
    rw [passTurn_patience] at hpat
    cases hr : roundOpens s with
    | true =>
      have hp : s.patience = 0 := by
        simp only [roundOpens, Bool.and_eq_true, beq_iff_eq] at hr
        exact hr.1
      have hs : k ∉ s.owed := fun hs => by
        have hmem := mem_stillOwed.mpr ⟨hs, hk⟩
        rw [stillOwed_of_not_due hd hp] at hmem
        cases hmem
      rw [hr, if_pos rfl] at howed
      exact waitRank_lt_of_round hs (howed ▸ mem_owedAfter hk hne)
    | false =>
      have hp : s.patience ≠ 0 := fun hp => hn (taken_of_round_closed hp hr hk)
      simp only [hr, Bool.false_eq_true, if_false] at howed hpat
      refine waitRank_lt_of_turn (fun hs => ?_) (.inl (by omega))
      exact howed ▸ mem_owedAfter (mem_stillOwed.mpr ⟨hs, hk⟩) hne

/-- In every run an own step is at some time disabled or taken: else its rank would fall for ever. -/
theorem own_step_taken_or_disabled {inputs : Nat → List Event} {run : Nat → State}
    (hrun : IsRun inputs run) (n : Nat) {k : InternalStep} (hown : k ∈ ownSteps) :
    ∃ m, n ≤ m ∧ (stepEnabled (run m) k = false ∨ takenAt inputs run m = some (.internal k)) := by
  by_contra! hwait
  refine not_strictAnti_of_wellFoundedLT (fun j => waitRank k (run (n + j)))
    (strictAnti_nat_of_succ_lt fun j => ?_)
  obtain ⟨hen, hnot⟩ := hwait (n + j) (Nat.le_add_right n j)
  have hk : k ∈ enabledSteps (arrive (inputs (n + j)) (run (n + j))) :=
    mem_enabledSteps.mpr ⟨hown, by simpa using hen⟩
  exact waitRank_step_lt (s := arrive (inputs (n + j)) (run (n + j))) hk hnot (hrun (n + j))

/-! ## An event that waits -/

/-- From instant `n` on, `e` is at some time taken off the head of the schedule, with `post` next in it. -/
def TakenLater (inputs : Nat → List Event) (run : Nat → State) (n : Nat) (e : Event)
    (post : List Event) : Prop :=
  ∃ m later, n ≤ m ∧ (arrive (inputs m) (run m)).schedule = e :: (post ++ later) ∧
    takenAt inputs run m = some e ∧ (run (m + 1)).schedule = post ++ later

/-- What arrives meanwhile stands behind `post`. -/
theorem TakenLater.of_succ {inputs : Nat → List Event} {run : Nat → State} {n : Nat} {e : Event}
    {post es : List Event} (h : TakenLater inputs run (n + 1) e (post ++ es)) :
    TakenLater inputs run n e post := by
  obtain ⟨m, later, hm, hsched, htaken, hnext⟩ := h
  rw [List.append_assoc] at hsched hnext
  exact ⟨m, es ++ later, Nat.le_of_succ_le hm, hsched, htaken, hnext⟩

/-- In every run what waits in the schedule is taken: a due step goes first, but leaves fewer owed, and
every free turn takes the head. -/
theorem waiting_event_taken {inputs : Nat → List Event} {run : Nat → State} (hrun : IsRun inputs run)
    (n : Nat) (pre post : List Event) (e : Event)
    (hs : (arrive (inputs n) (run n)).schedule = pre ++ e :: post) : TakenLater inputs run n e post := by
  have arrived : ∀ pre', (run (n + 1)).schedule = pre' ++ e :: post →
      (arrive (inputs (n + 1)) (run (n + 1))).schedule = pre' ++ e :: (post ++ inputs (n + 1)) := by
    intro pre' h
    rw [arrive_schedule, h, List.append_assoc, List.cons_append]
  cases hd : dueStep (arrive (inputs n) (run n)) with
  | some k =>
    have hfewer : (run (n + 1)).owed.length < (run n).owed.length :=
      length_owed_lt_of_due (s := arrive (inputs n) (run n)) hd (hrun n)
    obtain ⟨-, -, hsched⟩ := step_due hd (hrun n)
    exact (waiting_event_taken hrun (n + 1) pre _ e (arrived pre (hsched.trans hs))).of_succ
  | none =>
    cases pre with
    | nil =>
      obtain ⟨htaken, hsched⟩ := step_head hd hs (hrun n)
      exact ⟨n, [], Nat.le_refl n, by simpa using hs, htaken, by simpa using hsched⟩
    | cons a pre =>
      obtain ⟨-, hsched⟩ := step_head hd hs (hrun n)
      exact (waiting_event_taken hrun (n + 1) pre _ e (arrived pre hsched)).of_succ
termination_by (pre.length, (run n).owed.length)

/-- Every run is fair. -/
theorem isRun_fair {inputs : Nat → List Event} {run : Nat → State} (hrun : IsRun inputs run) :
    Fair inputs run where
  own_steps n _ hown := own_step_taken_or_disabled hrun n hown
  inputs_taken := waiting_event_taken hrun

/-! ## A notification that waits -/

/-- Whether NOTE is enabled can be read off the pin side. -/
theorem noteEnabled_of_pinView {s t : State} (h : pinView t = pinView s) :
    noteEnabled t = noteEnabled s :=
  congrArg₂ (· || ·) (congrArg (·.noteMissed) h) (congrArg (·.noteHardFail) h)

theorem noteEnabled_deliver (r : PinRequest) (s : State) : noteEnabled (deliver r s) = noteEnabled s := by
  obtain ⟨-, h⟩ | ⟨-, h⟩ := deliver_cases r s <;> rw [h]; rfl

/-- The acceptance of a request can only add a notification (R190). -/
theorem noteEnabled_takeRequest {s : State} (hs : noteEnabled s = true) :
    noteEnabled (takeRequest s) = true := by
  unfold takeRequest
  split
  next r _ =>
    cases r with
    | init => exact hs
    | immediate => exact hs
    | timed off =>
      obtain ⟨-, h⟩ | ⟨-, h⟩ := acceptTimed_cases (offsetOf off) { s with mailbox := none } <;>
        rw [acceptRequest, h]
      · rfl
      · exact hs
  next => exact hs

/-- No instruction but NOTE and RESET takes a notification back (R40). -/
theorem noteEnabled_exec {i : Instr} {s t : State} (hnote : i ≠ .note) (hreset : i ≠ .reset)
    (hs : noteEnabled s = true) (h : exec i s = .next t) : noteEnabled t = true := by
  by_cases hl : i.mnemonic ∈ loopSide
  · rw [noteEnabled_of_pinView (pinView_exec_loop hl hnote h), hs]
  cases i with
  | reset => exact absurd rfl hreset
  | pininit => cases h; rw [noteEnabled_deliver, hs]
  | pintgl => cases h; rw [noteEnabled_deliver, hs]
  | pintglt => cases h; rw [noteEnabled_deliver, hs]
  | pinfault => cases h; simp [noteEnabled]
  | paccept => obtain ⟨-, rfl⟩ := whenEnabled_next h; exact noteEnabled_takeRequest hs
  | pflip => obtain ⟨-, rfl⟩ := whenEnabled_next h; exact hs
  | tick => obtain ⟨-, rfl⟩ := whenEnabled_next h; exact hs
  | _ => exact absurd (by simp [Instr.mnemonic, loopSide]) hl

theorem InternalStep.instr_injective : Function.Injective InternalStep.instr := by
  intro j k h
  cases j <;> cases k <;> cases h <;> rfl

/-- No step but one that takes NOTE or RESET takes a notification back: a word decodes to neither (R94). -/
theorem noteEnabled_step {s t : State} (hs : noteEnabled s = true)
    (hnote : taken s ≠ some (.internal .note)) (hreset : taken s ≠ some (.internal .reset))
    (h : step s = .next t) : noteEnabled t = true := by
  obtain ⟨e, u, ht, -⟩ := step_take h
  have hu : noteEnabled u = true := by
    obtain ⟨_, _, _, _, rfl⟩ := take_frame ht
    exact hs
  rw [taken_of_take ht] at hnote hreset
  cases e with
  | internal k =>
    rw [step_of_take_internal ht] at h
    have hk : k ≠ .note ∧ k ≠ .reset := by simpa using And.intro hnote hreset
    exact noteEnabled_exec (i := k.instr) (s := { u with owed := u.owed.erase k })
      (InternalStep.instr_injective.ne hk.1) (InternalStep.instr_injective.ne hk.2) hu h
  | word w =>
    simp only [step, fetch, ht, fetchEvent, fetchWord] at h
    cases hdec : decode u.cfg.timerMod w with
    | error _ =>
      rw [hdec] at h
      cases h
      rw [noteEnabled_of_pinView (pinView_illegalWord w u), hu]
    | ok i =>
      rw [hdec] at h
      have hop := opcodeOfInstr_of_decode hdec
      exact noteEnabled_exec (by rintro rfl; cases hop) (by rintro rfl; cases hop) hu h

/-- While a notification waits, a NOTE is taken later, or a RESET: else NOTE would stay enabled for ever
and never be taken (R70). -/
theorem notification_taken_or_reset {inputs : Nat → List Event} {run : Nat → State}
    (hrun : IsRun inputs run) (n : Nat) (hn : noteEnabled (run n) = true) :
    ∃ m, n ≤ m ∧ (takenAt inputs run m = some (.internal .note) ∨
      takenAt inputs run m = some (.internal .reset)) := by
  by_contra! hnever
  have hstays : ∀ m, n ≤ m → noteEnabled (run m) = true := by
    intro m hm
    induction m, hm using Nat.le_induction with
    | base => exact hn
    | succ m hm ih =>
      obtain ⟨hnote, hreset⟩ := hnever m hm
      exact noteEnabled_step (s := arrive (inputs m) (run m)) ih hnote hreset (hrun m)
  obtain ⟨m, hm, hdis | htaken⟩ := own_step_taken_or_disabled hrun n (k := .note) (by decide)
  · exact Bool.false_ne_true (hdis.symm.trans (hstays m hm))
  · exact (hnever m hm).1 htaken

/-- Settles O8: fairness comes from the falling rank of the round, and NOTE's part from NOTE's fairness. -/
theorem everyRunIsFair : Obligations.EveryRunIsFair :=
  fun _ _ hrun => ⟨isRun_fair hrun, notification_taken_or_reset hrun⟩

end Sys2Proof.Machine
end

section
/-! The opcode map (30_encoding.md R85) and the decoder (R102): a row's `match` and `mask` test the opcode
byte and the reserved bits of the row's format, which is what the decoder tests; and the obligation that
both accept the same words. -/

namespace Sys2Proof

/-! ## Reserved bits as masks -/

/-- The mask of `n` bits from bit `k` on. -/
def sliceMask (w k n : Nat) : BitVec w := (BitVec.allOnes n).setWidth w <<< k

theorem getLsbD_sliceMask (w k n j : Nat) :
    (sliceMask w k n).getLsbD j = (decide (j < w) && decide (k ≤ j) && decide (j - k < n)) := by
  rw [sliceMask, BitVec.getLsbD_shiftLeft, BitVec.getLsbD_setWidth, BitVec.getLsbD_allOnes]
  grind

/-- A field is zero exactly when its mask leaves nothing. -/
theorem extractLsb'_eq_zero_iff {w k n : Nat} (h : k + n ≤ w) (x : BitVec w) :
    x.extractLsb' k n = 0#n ↔ x &&& sliceMask w k n = 0#w := by
  constructor
  · refine fun hz => BitVec.eq_of_getLsbD_eq fun j _ => ?_
    rw [BitVec.getLsbD_and, getLsbD_sliceMask, BitVec.getLsbD_zero]
    by_cases hin : k ≤ j ∧ j - k < n
    · have hbit := congrArg (·.getLsbD (j - k)) hz
      simp only [BitVec.getLsbD_extractLsb', BitVec.getLsbD_zero, hin.2, decide_true, Bool.true_and,
        Nat.add_sub_cancel' hin.1] at hbit
      rw [hbit, Bool.false_and]
    · grind
  · refine fun hz => BitVec.eq_of_getLsbD_eq fun j hj => ?_
    have hbit := congrArg (·.getLsbD (k + j)) hz
    simp only [BitVec.getLsbD_and, getLsbD_sliceMask, BitVec.getLsbD_zero, Nat.le_add_right,
      Nat.add_sub_cancel_left, hj, show k + j < w by omega, decide_true, Bool.and_true] at hbit
    rw [BitVec.getLsbD_extractLsb', hbit, Bool.and_false, BitVec.getLsbD_zero]

/-- The reserved bits of `AUX` (R82, R95; for the answers R92, R93). -/
def Format.reservedAux : Format → BitVec 24
  | .n | .f | .o | .k | .a => BitVec.allOnes 24
  | .s => sliceMask 24 2 22
  | .e => sliceMask 24 3 21
  | .status => sliceMask 24 5 3 ||| sliceMask 24 16 8
  | .settings => sliceMask 24 18 6

/-- The reserved bits of `OPR` (R82, R95). -/
def Format.reservedOpr : Format → BitVec 32
  | .n | .s => BitVec.allOnes 32
  | .k => sliceMask 32 8 24
  | .f | .e | .o | .a | .status | .settings => 0#32

/-- The decoder's test of the reserved bits is the test by masks. -/
theorem reservedZero_iff (fmt : Format) (aux : BitVec 24) (opr : BitVec 32) :
    reservedZero fmt aux opr = true ↔
      aux &&& fmt.reservedAux = 0#24 ∧ opr &&& fmt.reservedOpr = 0#32 := by
  cases fmt <;>
    simp [-BitVec.reduceAllOnes, reservedZero, Format.reservedAux, Format.reservedOpr,
      extractLsb'_eq_zero_iff, BitVec.and_or_distrib_left]

/-! ## The rows -/

theorem mkWord_and (o o' : BitVec 8) (a a' : BitVec 24) (p p' : BitVec 32) :
    mkWord o a p &&& mkWord o' a' p' = mkWord (o &&& o') (a &&& a') (p &&& p') :=
  BitVec.and_append.trans (congrArg (· ++ (p &&& p')) BitVec.and_append)

theorem mkWord_inj {o o' : BitVec 8} {a a' : BitVec 24} {p p' : BitVec 32} :
    mkWord o a p = mkWord o' a' p' ↔ o = o' ∧ a = a' ∧ p = p' := by
  constructor
  · intro h
    exact ⟨by simpa using congrArg opcField h, by simpa using congrArg auxField h,
      by simpa using congrArg oprField h⟩
  · rintro ⟨rfl, rfl, rfl⟩; rfl

/-- Every printed row has its opcode byte for `match`, and for `mask` the opcode byte and the reserved bits
of its format. -/
theorem pattern_mask_of_mem_opcodeMap : ∀ r ∈ opcodeMap,
    r.pattern = mkWord r.opcode.code 0#24 0#32 ∧
    r.mask = mkWord (BitVec.allOnes 8) r.opcode.format.reservedAux r.opcode.format.reservedOpr := by
  decide

/-- A row matches the words of its opcode byte whose reserved bits are zero. -/
theorem MapRow.matches_iff {r : MapRow} (hr : r ∈ opcodeMap) (w : Word) :
    r.matches w = true ↔
      r.opcode.code = opcField w ∧ reservedZero r.opcode.format (auxField w) (oprField w) = true := by
  obtain ⟨hpattern, hmask⟩ := pattern_mask_of_mem_opcodeMap r hr
  rw [reservedZero_iff, MapRow.matches, beq_iff_eq, hpattern, hmask, eq_comm (a := r.opcode.code)]
  conv_lhs => rw [← mkWord_fields w]
  rw [mkWord_and, mkWord_inj, BitVec.and_allOnes]

/-! ## The decoder -/

/-- Operands are read from every word but a REFEV with a count out of range. -/
theorem exists_assemble_iff (timerMod : Nat) (op : Opcode) (aux : BitVec 24) (opr : BitVec 32) :
    (∃ i, assemble timerMod op aux opr = .ok i) ↔ (op = .refev → opr.toNat < timerMod) := by
  cases op
  case refev => by_cases h : opr.toNat < timerMod <;> simp [assemble, h]
  all_goals exact iff_of_true ⟨_, rfl⟩ nofun

theorem opcodeOfInstr_of_assemble {timerMod : Nat} {op : Opcode} {aux : BitVec 24} {opr : BitVec 32}
    {i : Instr} (h : assemble timerMod op aux opr = .ok i) : opcodeOfInstr i = some op := by
  cases op
  case refev =>
    rw [assemble] at h
    split at h <;> cases h
    rfl
  all_goals cases h; rfl

/-- What the decoder accepts as an instruction of a given operation (R102). -/
theorem exists_decode_iff (timerMod : Nat) (w : Word) (op : Opcode) :
    (∃ i, decode timerMod w = .ok i ∧ opcodeOfInstr i = some op) ↔
      (op.code = opcField w ∧ reservedZero op.format (auxField w) (oprField w) = true) ∧
      (op = .refev → (oprField w).toNat < timerMod) := by
  rw [← exists_assemble_iff timerMod op (auxField w)]
  constructor
  · rintro ⟨i, hdec, hop⟩
    obtain ⟨op', hcode, hres, hasm⟩ := decode_ok_cases hdec
    cases hop.symm.trans (opcodeOfInstr_of_assemble hasm)
    exact ⟨⟨hcode, hres⟩, i, hasm⟩
  · rintro ⟨⟨hcode, hres⟩, i, hasm⟩
    refine ⟨i, ?_, opcodeOfInstr_of_assemble hasm⟩
    rw [← mkWord_fields w, ← hcode, decode_mkWord, if_pos hres, hasm]

/-- The input messages are the instructions whose operation has a row (R85). -/
theorem isMessage_iff_row {i : Instr} {op : Opcode} (h : opcodeOfInstr i = some op) :
    i.isMessage = true ↔ ∃ r ∈ opcodeMap, r.opcode = op := by
  cases i <;> cases h
  case status | settings => exact iff_of_false nofun (by decide)
  all_goals exact iff_of_true rfl (by decide)

/-- Settles O4: a row and the decoder test the same opcode byte and the same reserved bits, and a REFEV's
count is the only other condition. -/
theorem messagesAreTheOpcodeMapRows : Obligations.MessagesAreTheOpcodeMapRows := by
  intro timerMod w op
  constructor
  · rintro ⟨i, hdec, hmsg, hop⟩
    obtain ⟨hfields, hcount⟩ := (exists_decode_iff timerMod w op).mp ⟨i, hdec, hop⟩
    obtain ⟨r, hr, rfl⟩ := (isMessage_iff_row hop).mp hmsg
    exact ⟨r, hr, rfl, (MapRow.matches_iff hr w).mpr hfields, hcount⟩
  · rintro ⟨r, hr, rfl, hmatch, hcount⟩
    obtain ⟨i, hdec, hop⟩ :=
      (exists_decode_iff timerMod w r.opcode).mpr ⟨(MapRow.matches_iff hr w).mp hmatch, hcount⟩
    exact ⟨i, hdec, (isMessage_iff_row hop).mpr ⟨r, hr, rfl⟩, hop⟩

end Sys2Proof
end

section
/-! The answer words STATUS and SETTINGS (30_encoding.md R92, R93): their `AUX` as the number whose digits
are the fields; and the obligations on the two messages that send them and on the words taken as input. -/

namespace Sys2Proof.Machine

/-! ## The words as numbers -/

theorem toNat_append_eq_add {m n : Nat} (x : BitVec m) (y : BitVec n) :
    (x ++ y).toNat = 2 ^ n * x.toNat + y.toNat := by
  rw [BitVec.toNat_append, ← Nat.shiftLeft_add_eq_or_of_lt y.isLt, Nat.shiftLeft_eq, Nat.mul_comm]

/-- `AUX` of the STATUS word (R92). -/
theorem auxOfStatus_eq_ofNat (src : ClockSource) (lock : BitVec 2) (rateValid : Bool) (flags : BitVec 8) :
    auxOfStatus src lock rateValid flags =
      BitVec.ofNat 24 ((sourceCode src).toNat + 4 * lock.toNat + 16 * rateValid.toNat +
        256 * flags.toNat) := by
  have hsrc := (sourceCode src).isLt
  have hlock := lock.isLt
  have hrate := rateValid.toNat_lt
  have hflags := flags.isLt
  apply BitVec.eq_of_toNat_eq
  simp only [auxOfStatus, toNat_append_eq_add, BitVec.toNat_ofNat, BitVec.toNat_ofBool]
  omega

/-- `AUX` of the SETTINGS word (R93). -/
theorem auxOfSettings_eq_ofNat (fracIndex : BitVec 16) (firstUpdate unsup : Bool) :
    auxOfSettings fracIndex firstUpdate unsup =
      BitVec.ofNat 24 (unsup.toNat * 2 ^ 17 + firstUpdate.toNat * 2 ^ 16 + fracIndex.toNat) := by
  have hindex := fracIndex.isLt
  have hfirst := firstUpdate.toNat_lt
  have hunsup := unsup.toNat_lt
  apply BitVec.eq_of_toNat_eq
  simp only [auxOfSettings, toNat_append_eq_add, BitVec.toNat_ofNat, BitVec.toNat_ofBool]
  omega

/-! ## The two reads -/

/-- Settles O31: the status word is built from the fields that R92 adds up, and GETSTATUS only sends it. -/
theorem getstatusAnswersTheStatusWord : Obligations.GetstatusAnswersTheStatusWord := by
  intro s
  rw [← auxOfStatus_eq_ofNat]
  rfl

theorem exec_synget (freq : BitVec 32) (s : State) :
    exec (.synget freq) s = .next (respond (settingsAnswer s.cfg freq) s) := rfl

theorem settingsAnswer_of_supported {p : Params} (hp : p.Valid) {freq : BitVec 32}
    (h : supported p freq.toNat) :
    settingsAnswer p freq = mkWord Opcode.settings.code (BitVec.ofNat 24 (1 * 2 ^ 16 + p.fracInit))
      (BitVec.ofNat 32 (settingsFor p freq.toNat).adder) := by
  have hindex : (BitVec.ofNat 16 p.fracInit).toNat = p.fracInit :=
    Nat.mod_eq_of_lt (Nat.lt_of_lt_of_le hp.fracInit_lt hp.tableSize_high)
  have haux := auxOfSettings_eq_ofNat (BitVec.ofNat 16 p.fracInit) true false
  rw [hindex] at haux
  simp only [settingsAnswer, freqOf, computeSettings_of_supported h, settingsWord, settingsFor, haux]
  rfl

theorem settingsAnswer_of_unsupported {p : Params} {freq : BitVec 32}
    (h : ¬ supported p freq.toNat) :
    settingsAnswer p freq = mkWord Opcode.settings.code (BitVec.ofNat 24 (2 ^ 17)) 0#32 := by
  simp only [settingsAnswer, freqOf, computeSettings_of_unsupported h, settingsWord,
    auxOfSettings_eq_ofNat]
  rfl

/-- Settles O34: the constraints on the parameters are needed for FRAC_INIT to fit its 16 bits. -/
theorem syngetAnswersTheSettings : Obligations.SyngetAnswersTheSettings := by
  intro freq s hp
  rw [exec_synget]
  refine ⟨fun h => ?_, fun h => ?_⟩
  · rw [settingsAnswer_of_supported hp h]; rfl
  · rw [settingsAnswer_of_unsupported h]; rfl

/-! ## The two answers as input -/

/-- A word that carries the opcode byte of an answer is on port 9, of the control-loop domain. -/
theorem pinPort_of_answer_opcode {w : Word} {op : Opcode} (hop : op = .status ∨ op = .settings)
    (hw : op.code = opcField w) : pinPort w = false := by
  rw [pinPort, ← mkWord_fields w, portField_mkWord, ← hw]
  obtain rfl | rfl := hop <;> rfl

/-- On a port of the control-loop domain an illegal word raises BAD_CMD. -/
theorem illegalWord_of_not_pinPort {w : Word} (h : pinPort w = false) (s : State) :
    illegalWord w s = raise .badCmd s := by
  rw [illegalWord, h, if_neg Bool.false_ne_true]

theorem exec_status (src : ClockSource) (lock : BitVec 2) (rateValid : Bool) (flags : BitVec 8)
    (rate : BitVec 32) (s : State) :
    exec (.status src lock rateValid flags rate) s = .next (raise .badCmd s) :=
  congrArg _ (illegalWord_of_not_pinPort
    (pinPort_of_answer_opcode (.inl rfl) (opcField_mkWord ..).symm) s)

theorem exec_settings (fracIndex : BitVec 16) (firstUpdate unsup : Bool) (adder : BitVec 32) (s : State) :
    exec (.settings fracIndex firstUpdate unsup adder) s = .next (raise .badCmd s) :=
  congrArg _ (illegalWord_of_not_pinPort
    (pinPort_of_answer_opcode (.inr rfl) (opcField_mkWord ..).symm) s)

/-- Settles O38: both words carry an answer's opcode byte, so they are illegal words on port 9. -/
theorem answersAsInputRaiseBadCmd : Obligations.AnswersAsInputRaiseBadCmd :=
  fun s src lock rateValid flags rate fracIndex firstUpdate unsup adder =>
    ⟨exec_status src lock rateValid flags rate s, exec_settings fracIndex firstUpdate unsup adder s⟩

end Sys2Proof.Machine
end

section
/-! Illegal words (30_encoding.md R96): what the decoder rejects and the answers it recognises are handled
alike, and they are the words that are the message of no row; and the obligation on such a word. -/

namespace Sys2Proof.Machine

/-- The word is the message of no row of R85's map: no row matches, or REFEV's does with a count out of
range. -/
def NoRowMessage (timerMod : Nat) (w : Word) : Prop :=
  ∀ r : MapRow, r ∈ opcodeMap → r.matches w = true →
    r.opcode = .refev ∧ timerMod ≤ (oprField w).toNat

/-- Such a word decodes to no input message. -/
theorem not_isMessage_of_noRowMessage {timerMod : Nat} {w : Word} (hno : NoRowMessage timerMod w)
    {i : Instr} (hdec : decode timerMod w = .ok i) : i.isMessage = false := by
  by_contra hmsg
  obtain ⟨op, hop⟩ := Option.isSome_iff_exists.mp (opcodeOfInstr_of_decode hdec)
  obtain ⟨r, hr, rfl, hmatch, hcount⟩ := (messagesAreTheOpcodeMapRows timerMod w op).mp
    ⟨i, hdec, Bool.eq_true_of_not_eq_false hmsg, hop⟩
  obtain ⟨hrefev, hrange⟩ := hno r hr hmatch
  exact Nat.not_lt.mpr hrange (hcount hrefev)

/-- A word of the wrong direction is handled as an illegal word (R96, log 11). -/
theorem exec_of_decode_not_isMessage {timerMod : Nat} {w : Word} {i : Instr}
    (hdec : decode timerMod w = .ok i) (hmsg : i.isMessage = false) (s : State) :
    exec i s = .next (illegalWord w s) := by
  obtain ⟨op, hcode, -, hasm⟩ := decode_ok_cases hdec
  have hop := opcodeOfInstr_of_assemble hasm
  cases i with
  | status src lock rateValid flags rate =>
    cases hop
    rw [exec_status, illegalWord_of_not_pinPort (pinPort_of_answer_opcode (.inl rfl) hcode)]
  | settings fracIndex firstUpdate unsup adder =>
    cases hop
    rw [exec_settings, illegalWord_of_not_pinPort (pinPort_of_answer_opcode (.inr rfl) hcode)]
  | timeout | note | paccept | pflip | tick | reset => cases hop
  | _ => cases hmsg

/-- With nothing due, a step whose next input is the message of no row handles it as an illegal word. -/
theorem step_of_noRowMessage {s : State} {w : Word} {rest : List Event} (hd : dueStep s = none)
    (hs : s.schedule = .word w :: rest) (hno : NoRowMessage s.cfg.timerMod w) :
    step s = .next (illegalWord w { passTurn s with schedule := rest }) := by
  simp only [step, fetch_word hd hs, fetchWord, passTurn_cfg]
  cases hdec : decode s.cfg.timerMod w with
  | error e => rfl
  | ok i => exact exec_of_decode_not_isMessage hdec (not_isMessage_of_noRowMessage hno hdec) _

theorem pinPort_iff (w : Word) : pinPort w = true ↔ portField w = 6#4 ∨ portField w = 7#4 := by
  simp only [pinPort, Bool.or_eq_true, beq_iff_eq]

/-- Settles O7: no row's message means rejected or an answer, and both are handled by the port. -/
theorem illegalWordsAreRaisedOrDropped : Obligations.IllegalWordsAreRaisedOrDropped := by
  intro s w rest hd hs hno
  rw [step_of_noRowMessage hd hs hno]
  refine ⟨fun hport => ?_, fun hport => ?_⟩
  · rw [illegalWord, if_pos ((pinPort_iff w).mpr hport)]
  · rw [illegalWord_of_not_pinPort (Bool.eq_false_of_not_eq_true (mt (pinPort_iff w).mp hport))]
    rfl

end Sys2Proof.Machine
end

section
/-! The synthesizer (40_synth_model.md): the settings of a frequency, with the rounding of `adder` (R110 to
R113), and the update stage as saturated moves along the table (R118); and the obligations on them. -/

namespace Sys2Proof.Machine

/-! ## The settings of a frequency -/

/-- Only a supported frequency has settings, and they are those of R112's formula. -/
theorem computeSettings_eq_some_iff {p : Params} {f : Nat} {st : Settings} :
    computeSettings p f = some st ↔ supported p f ∧ settingsFor p f = st := by
  by_cases hs : supported p f
  · rw [computeSettings_of_supported hs, Option.some_inj, and_iff_right hs]
  · rw [computeSettings_of_unsupported hs]
    exact iff_of_false nofun (hs ·.1)

/-- Dividing `2a + f` by `2f` rounds `a / f` to the nearest integer, halves up (R113). -/
theorem div_two_mul_rounds_half_up (a : Nat) {f : Nat} (hf : 0 < f) :
    2 * f * ((2 * a + f) / (2 * f)) ≤ 2 * a + f ∧
    2 * a + f < 2 * f * ((2 * a + f) / (2 * f)) + 2 * f :=
  ⟨Nat.mul_div_le .., Nat.lt_mul_div_succ _ (by omega)⟩

/-- Settles O20: the two cases of the test on the frequency. -/
theorem computeSettingsFollowsItsRule : Obligations.ComputeSettingsFollowsItsRule :=
  fun _ _ => ⟨computeSettings_of_supported, computeSettings_of_unsupported⟩

/-- Settles O21: R112's quotient is the rounded advance; the frequency is positive, being supported. -/
theorem adderIsRoundedHalfUp : Obligations.AdderIsRoundedHalfUp := by
  refine ⟨fun p f st h => ?_, by decide⟩
  obtain ⟨⟨hpos, -, -⟩, rfl⟩ := computeSettings_eq_some_iff.mp h
  refine ⟨(2 * (p.tickRateHz * p.checkSamples) + f) / (2 * f), ?_, div_two_mul_rounds_half_up _ hpos⟩
  simp only [settingsFor, Nat.mul_assoc]

/-! ## The update stage -/

/-- Between ordered bounds a clamp is the saturation at both (R11). -/
theorem clamp_eq_max_min (x : Int) {lo hi : Int} (h : lo ≤ hi) : clamp x lo hi = max lo (min x hi) := by
  unfold clamp
  split
  · omega
  · split <;> omega

/-- The move saturates at the ends of a table that has an entry (R118). -/
theorem moveIndex_cast {p : Params} (hp : 1 ≤ p.tableSize) (index : Nat) (move : Int) :
    (moveIndex p index move : Int) = max 0 (min ((index : Int) + move) ((p.tableSize : Int) - 1)) := by
  have hends : (0 : Int) ≤ (p.tableSize : Int) - 1 := by omega
  rw [moveIndex, Int.toNat_of_nonneg (clamp_bounds _ hends).1, clamp_eq_max_min _ hends]

/-- The seed moves by the whole correction. -/
@[simp] theorem updateStep_true (c : Int) : updateStep true c = c := rfl

/-- The steady state moves by at most one entry. -/
@[simp] theorem updateStep_false (c : Int) : updateStep false c = max (-1) (min c 1) :=
  clamp_eq_max_min c (by decide)

/-- Settles O22: a saturated move by the step of the seed or of the steady state. -/
theorem applyUpdateFollowsItsRule : Obligations.ApplyUpdateFollowsItsRule := by
  intro c s htable
  refine ⟨fun hseed => ?_, fun hsteady => ?_, rfl⟩
  · rw [applyUpdate_fracIndex, moveIndex_cast htable, hseed, updateStep_true]
  · rw [applyUpdate_fracIndex, moveIndex_cast htable, hsteady, updateStep_false]

end Sys2Proof.Machine
end

section
/-! The PLL core (41_pll_core.md): the PI stage with its floor and its saturations (R145), the rows of the
lock stage (R147), the cases of a reference event (R150) and the reference timeout (R152); and the
obligations on them. -/

namespace Sys2Proof.Machine

open Sys2Proof.Safety

/-! ## The PI stage -/

/-- The shift rounds toward minus infinity (R11). -/
theorem floorShift_bounds (x : Int) (n : Nat) :
    floorShift x n * 2 ^ n ≤ x ∧ x < (floorShift x n + 1) * 2 ^ n := by
  have hpos : (0 : Int) < 2 ^ n := by positivity
  rw [floorShift, Nat.cast_pow, Nat.cast_ofNat]
  exact ⟨Int.ediv_mul_le x hpos.ne', Int.lt_ediv_add_one_mul_self x hpos⟩

/-- Both clamps of R145 are symmetric around 0, so their bounds are ordered. -/
theorem clamp_symmetric (x : Int) (b : Nat) : clamp x (-(b : Int)) b = max (-(b : Int)) (min x b) :=
  clamp_eq_max_min x (by omega)

/-- Settles O23: the quotient of R145 is the floor of the gain sum, taken with the new integrator. -/
theorem piStageFollowsItsRule : Obligations.PiStageFollowsItsRule := by
  intro e s
  obtain ⟨hle, hlt⟩ := floorShift_bounds
    (s.cfg.kp * e + s.cfg.ki * (piStage e s).1.integ) s.cfg.gainShift
  refine ⟨?_, _, hle, hlt, clamp_symmetric ..⟩
  rw [← clamp_symmetric]
  rfl

/-! ## The lock stage -/

section LockRows

variable {a : Nat} {s : State}

theorem lockStage_of_unlocked (h : s.lock = .unlocked) :
    lockStage a s = { s with lock := .acquiring, dwell := 0 } := by
  simp only [lockStage, h, nextLock, nextDwell]

/-- A small sample before the last of the dwell is counted. -/
theorem lockStage_of_dwelling (h : s.lock = .acquiring) (ha : a < s.cfg.lockThreshold)
    (hd : s.dwell + 1 < s.cfg.minDwell) : lockStage a s = { s with dwell := s.dwell + 1 } := by
  simp only [lockStage, h, nextLock, nextDwell, if_pos ha, Nat.min_eq_left hd.le, hd.not_ge,
    and_false, if_false]

/-- The last small sample of the dwell locks. -/
theorem lockStage_of_dwelt (h : s.lock = .acquiring) (ha : a < s.cfg.lockThreshold)
    (hd : s.cfg.minDwell ≤ s.dwell + 1) :
    lockStage a s = { s with lock := .locked, dwell := s.cfg.minDwell } := by
  simp only [lockStage, h, nextLock, nextDwell, if_pos ha, Nat.min_eq_right hd,
    if_pos (And.intro ha le_rfl)]

/-- A sample at LOCK_THRESHOLD or above restarts the dwell. -/
theorem lockStage_of_restart (h : s.lock = .acquiring) (ha : s.cfg.lockThreshold ≤ a) :
    lockStage a s = { s with dwell := 0 } := by
  simp only [lockStage, h, nextLock, nextDwell, ha.not_gt, false_and, if_false]

/-- A sample above UNLOCK_THRESHOLD loses the lock. -/
theorem lockStage_of_lost (h : s.lock = .locked) (ha : s.cfg.unlockThreshold < a) :
    lockStage a s = { s with lock := .acquiring, dwell := 0 } := by
  simp only [lockStage, h, nextLock, nextDwell, if_pos ha]

/-- A sample up to UNLOCK_THRESHOLD keeps the lock and the dwell. -/
theorem lockStage_of_kept (h : s.lock = .locked) (ha : a ≤ s.cfg.unlockThreshold) :
    lockStage a s = s := by
  simp only [lockStage, h, nextLock, nextDwell, if_neg ha.not_gt]
  rw [← h]

end LockRows

/-- Settles O24: one lemma per row; MIN_DWELL need not be positive. -/
theorem lockStageFollowsItsTable : Obligations.LockStageFollowsItsTable :=
  fun _ _ _ => ⟨lockStage_of_unlocked, lockStage_of_dwelling, lockStage_of_dwelt,
    lockStage_of_restart, lockStage_of_lost, lockStage_of_kept⟩

/-! ## A reference event -/

theorem forwarded_iff {src : ClockSource} {s : State} :
    forwarded src s = true ↔ src = s.activeSource ∧ s.rateValid = true := by
  rw [forwarded, Bool.and_eq_true, beq_iff_eq]

theorem exec_refev (src : ClockSource) (kind : EventKind) (count : BitVec 32) (s : State) :
    exec (.refev src kind count) s =
      .next (if forwarded src s then observe count.toNat s else s) := rfl

/-- A discarded event changes nothing (R222). -/
theorem exec_refev_of_discarded {src : ClockSource} (kind : EventKind) (count : BitVec 32) {s : State}
    (h : src ≠ s.activeSource ∨ s.rateValid = false) : exec (.refev src kind count) s = .next s := by
  have hf : ¬ forwarded src s = true := by
    rw [forwarded_iff, not_and_or, Bool.not_eq_true]
    exact h
  rw [exec_refev, if_neg hf]

/-- A forwarded event is observed (R150). -/
theorem exec_refev_of_forwarded {src : ClockSource} (kind : EventKind) (count : BitVec 32) {s : State}
    (hsrc : src = s.activeSource) (hrate : s.rateValid = true) :
    exec (.refev src kind count) s = .next (observe count.toNat s) := by
  rw [exec_refev, if_pos (forwarded_iff.mpr ⟨hsrc, hrate⟩)]

/-- The first event after a reset of the loop primes it (R141). -/
theorem observe_of_unprimed {s : State} (hp : s.prevValid = false) (count : Nat) :
    observe count s = { s with wdog := 0, prevCount := count, prevValid := true } := if_pos hp

/-- A repeated count is a timer stall (R144). -/
theorem observe_of_stall {count : Nat} {s : State} (hp : s.prevValid = true) (hc : count = s.prevCount) :
    observe count s = { s with wdog := 0, flags := s.flags ||| 0x08#8 } := by
  rw [observe, if_neg (by rw [hp]; decide), if_pos hc]
  rfl

/-- Any other count is a sample (R140). -/
theorem observe_of_sample {count : Nat} {s : State} (hp : s.prevValid = true) (hc : count ≠ s.prevCount) :
    observe count s = takeSample count { s with wdog := 0 } := by
  rw [observe, if_neg (by rw [hp]; decide), if_neg hc]

/-- Settles O35: the source and the rate decide whether the event is forwarded, and `prevValid` and the
count which stages it then takes. -/
theorem refevFollowsItsRule : Obligations.RefevFollowsItsRule := by
  intro src kind count s
  refine ⟨exec_refev_of_discarded kind count, fun hsrc hrate hp => ?_, fun hsrc hrate hp hc => ?_,
    fun e hsrc hrate hp hc he => ?_⟩ <;> rw [exec_refev_of_forwarded kind count hsrc hrate]
  · rw [observe_of_unprimed hp]
  · rw [observe_of_stall hp hc]
  · rw [observe_of_sample hp hc, he]
    rfl

/-! ## The reference timeout -/

theorem timeoutEnabled_iff {s : State} :
    timeoutEnabled s = true ↔
      s.activeSource ≠ .internal ∧ s.rateValid = true ∧ s.cfg.refTimeoutTicks ≤ s.wdog := by
  rw [timeoutEnabled, Bool.and_eq_true, Bool.and_eq_true, bne_iff_ne, decide_eq_true_iff, and_assoc]

/-- REF_TIMEOUT and FALLBACK are bits 1 and 7 (R261). -/
theorem setFlag_refTimeout_fallback (flags : BitVec 8) :
    setFlag (setFlag flags .refTimeout) .fallback = flags ||| 0x82#8 := BitVec.or_assoc ..

theorem exec_timeout (s : State) :
    exec .timeout s = whenEnabled (timeoutEnabled s) .timeout
      (afterSwitch .internal (some s.currentRate) { s with flags := s.flags ||| 0x82#8 }) := by
  rw [← switchSeq_eq_afterSwitch, ← setFlag_refTimeout_fallback]
  rfl

/-- Settles O36: the two answers of an internal step, by its enabling condition. -/
theorem timeoutFollowsItsRule : Obligations.TimeoutFollowsItsRule := by
  intro s
  rw [exec_timeout]
  refine ⟨fun hsrc hrate hwdog => ?_, fun hoff => ?_⟩
  · rw [timeoutEnabled_iff.mpr ⟨hsrc, hrate, hwdog⟩, whenEnabled_true]
  · have hdisabled : timeoutEnabled s = false := by
      rw [← Bool.not_eq_true, timeoutEnabled_iff]
      rintro ⟨hsrc, hrate, hwdog⟩
      obtain h | h | h := hoff
      · exact hsrc h
      · exact Bool.false_ne_true (h.symm.trans hrate)
      · exact h.not_ge hwdog
    rw [hdisabled, whenEnabled_false]

end Sys2Proof.Machine
end

section
/-! The pin driver and the time base (42_pin_driver.md): the arrival of a request (R184), its acceptance
(R188, R190), the flip in its window (R192), the tick and its urgency conditions (R196) and the hard
failure (R198); and the obligations on them. -/

namespace Sys2Proof.Machine

/-! ## The arrival of a request -/

/-- Each request instruction is the delivery of its request (R180, R181, R182). -/
theorem exec_pininit (s : State) : exec .pininit s = .next (deliver .init s) := rfl

theorem exec_pintgl (s : State) : exec .pintgl s = .next (deliver .immediate s) := rfl

theorem exec_pintglt (off : BitVec 32) (s : State) :
    exec (.pintglt off) s = .next (deliver (.timed off) s) := rfl

theorem deliver_of_serving {s : State} (h : s.failed = false) (r : PinRequest) :
    deliver r s = { s with mailbox := some r } := if_neg (Bool.eq_false_iff.mp h)

theorem deliver_of_failed {s : State} (h : s.failed = true) (r : PinRequest) : deliver r s = s :=
  if_pos h

/-- Settles O39: the three instructions differ only in the request they deliver. -/
theorem pinRequestsAreDelivered : Obligations.PinRequestsAreDelivered := by
  intro off s
  rw [exec_pininit, exec_pintgl, exec_pintglt]
  refine ⟨fun hserving => ?_, fun hfailed => ?_⟩
  · simp only [deliver_of_serving hserving, and_self]
  · simp only [deliver_of_failed hfailed, and_self]

/-! ## The acceptance of a request -/

theorem pacceptEnabled_iff {s : State} :
    pacceptEnabled s = true ↔ s.failed = false ∧ s.inflight = none ∧ s.mailbox ≠ none := by
  rw [pacceptEnabled, Bool.and_eq_true, Bool.and_eq_true, Bool.not_eq_true', Option.isNone_iff_eq_none,
    Option.isSome_iff_ne_none, and_assoc]

theorem takeRequest_of_waiting {s : State} {r : PinRequest} (h : s.mailbox = some r) :
    takeRequest s = acceptRequest r { s with mailbox := none } := by
  rw [takeRequest, h]

theorem exec_paccept_of_enabled {s : State} (h : pacceptEnabled s = true) :
    exec .paccept s = .next (takeRequest s) := if_pos h

theorem exec_paccept_of_disabled {s : State} (h : ¬ pacceptEnabled s = true) :
    exec .paccept s = .refused (.notEnabled .paccept) := if_neg h

/-- An idle, serving driver accepts the request that waits (R188). -/
theorem exec_paccept_of_waiting {s : State} {r : PinRequest} (hserving : s.failed = false)
    (hidle : s.inflight = none) (hwaiting : s.mailbox = some r) :
    exec .paccept s = .next (acceptRequest r { s with mailbox := none }) := by
  have henabled := pacceptEnabled_iff.mpr ⟨hserving, hidle, by simp [hwaiting]⟩
  rw [exec_paccept_of_enabled henabled, takeRequest_of_waiting hwaiting]

theorem exec_paccept_of_failed {s : State} (h : s.failed = true) :
    exec .paccept s = .refused (.notEnabled .paccept) :=
  exec_paccept_of_disabled fun he => Bool.eq_false_iff.mp (pacceptEnabled_iff.mp he).1 h

/-- An offset below MIN_LEAD_TICKS flips at once and is reported (R190). -/
theorem acceptRequest_timed_of_missed {s : State} {off : BitVec 32}
    (h : off.toInt < (s.cfg.minLeadTicks : Int)) :
    acceptRequest (.timed off) s = { s with noteMissed := true, inflight := some 0 } := if_pos h

/-- Any other offset is the countdown of the flip (R190). -/
theorem acceptRequest_timed_of_lead {s : State} {off : BitVec 32}
    (h : (s.cfg.minLeadTicks : Int) ≤ off.toInt) :
    acceptRequest (.timed off) s = { s with inflight := some off.toInt } := if_neg h.not_gt

/-! ## The tick -/

theorem windowOpen_iff {s : State} :
    windowOpen s = true ↔ ∀ rem, s.inflight = some rem → -(s.cfg.jitterTicks : Int) < rem := by
  cases h : s.inflight <;> simp [windowOpen, h]

theorem tickEnabled_iff {s : State} :
    tickEnabled s = true ↔ ¬ pacceptEnabled s = true ∧ windowOpen s = true := by
  rw [tickEnabled, Bool.and_eq_true, Bool.not_eq_true', Bool.not_eq_true]

theorem exec_tick_of_enabled {s : State} (h : tickEnabled s = true) :
    exec .tick s = .next
      { s with
        wdog := min (s.wdog + 1) s.cfg.refTimeoutTicks
        inflight := s.inflight.map (fun rem => rem - 1)
        now := s.now + 1 } := if_pos h

theorem exec_tick_of_disabled {s : State} (h : ¬ tickEnabled s = true) :
    exec .tick s = .refused (.notEnabled .tick) := if_neg h

/-- PACCEPT is urgent: no time passes while it is enabled (R196). -/
theorem exec_tick_of_waiting {s : State} (hserving : s.failed = false) (hidle : s.inflight = none)
    (hwaiting : s.mailbox ≠ none) : exec .tick s = .refused (.notEnabled .tick) :=
  exec_tick_of_disabled fun he =>
    (tickEnabled_iff.mp he).1 (pacceptEnabled_iff.mpr ⟨hserving, hidle, hwaiting⟩)

/-- Settles O40: one acceptance for each kind of request; an enabled PACCEPT refutes each part of the
disjunction. -/
theorem pacceptFollowsItsRule : Obligations.PacceptFollowsItsRule := by
  intro s
  refine ⟨exec_paccept_of_waiting, exec_paccept_of_waiting, fun off hserving hidle hwaiting hlead => ?_,
    fun off hserving hidle hwaiting hlead => ?_, fun hoff => exec_paccept_of_disabled fun he => ?_,
    exec_tick_of_waiting⟩
  · exact (exec_paccept_of_waiting hserving hidle hwaiting).trans
      (congrArg Host.Outcome.next (acceptRequest_timed_of_missed hlead))
  · exact (exec_paccept_of_waiting hserving hidle hwaiting).trans
      (congrArg Host.Outcome.next (acceptRequest_timed_of_lead hlead))
  · obtain ⟨hserving, hidle, hwaiting⟩ := pacceptEnabled_iff.mp he
    obtain hfailed | hbusy | hempty := hoff
    · exact Bool.eq_false_iff.mp hserving hfailed
    · exact hbusy hidle
    · exact hwaiting hempty

/-- Settles O42: a countdown is no request to accept, so each of the two states meets both urgency
conditions of R196, and each refusal breaks one. -/
theorem tickFollowsItsRule : Obligations.TickFollowsItsRule := by
  intro s rem
  refine ⟨fun hidle hquiet => ?_, fun hflying hopen => ?_, exec_tick_of_waiting,
    fun hflying hclosed => ?_⟩
  · have hnone : ¬ pacceptEnabled s = true := by
      rw [pacceptEnabled_iff]
      rintro ⟨hserving, -, hwaiting⟩
      exact hquiet.elim (Bool.eq_false_iff.mp hserving) hwaiting
    have hwindow : windowOpen s = true := windowOpen_iff.mpr (by simp [hidle])
    refine ⟨_, exec_tick_of_enabled (tickEnabled_iff.mpr ⟨hnone, hwindow⟩), ?_⟩
    simp only [hidle, Option.map_none]
  · have hnone : ¬ pacceptEnabled s = true := by simp [pacceptEnabled_iff, hflying]
    have hwindow : windowOpen s = true := windowOpen_iff.mpr (by simpa [hflying] using hopen)
    refine ⟨_, exec_tick_of_enabled (tickEnabled_iff.mpr ⟨hnone, hwindow⟩), ?_⟩
    simp only [hflying, Option.map_some]
  · exact exec_tick_of_disabled fun he =>
      (windowOpen_iff.mp (tickEnabled_iff.mp he).2 rem hflying).not_ge hclosed

/-! ## The flip -/

theorem pflipEnabled_iff {s : State} :
    pflipEnabled s = true ↔ ∃ rem, s.inflight = some rem ∧
      -(s.cfg.jitterTicks : Int) ≤ rem ∧ rem ≤ (s.cfg.jitterTicks : Int) := by
  cases h : s.inflight <;> simp [pflipEnabled, h]

theorem exec_pflip_of_enabled {s : State} (h : pflipEnabled s = true) :
    exec .pflip s = .next { s with pin := flipLevel s.pin, inflight := none } := if_pos h

theorem exec_pflip_of_disabled {s : State} (h : ¬ pflipEnabled s = true) :
    exec .pflip s = .refused (.notEnabled .pflip) := if_neg h

/-- Nothing is flipped while nothing is committed (R192). -/
theorem exec_pflip_of_idle {s : State} (h : s.inflight = none) :
    exec .pflip s = .refused (.notEnabled .pflip) :=
  exec_pflip_of_disabled (by simp [pflipEnabled_iff, h])

/-- Settles O41: the window is closed at both ends, and outside it there is no flip. -/
theorem pflipFollowsItsRule : Obligations.PflipFollowsItsRule := by
  intro s rem
  refine ⟨fun hflying hlow hhigh => ?_, fun hflying hout => ?_, exec_pflip_of_idle⟩
  · exact exec_pflip_of_enabled (pflipEnabled_iff.mpr ⟨rem, hflying, hlow, hhigh⟩)
  · refine exec_pflip_of_disabled fun he => ?_
    obtain ⟨rem', hflying', hlow, hhigh⟩ := pflipEnabled_iff.mp he
    obtain rfl : rem = rem' := Option.some.inj (hflying.symm.trans hflying')
    exact hout.elim hlow.not_gt hhigh.not_gt

/-! ## The hard failure -/

/-- The state a hard failure leaves (R198). -/
def pinFaulted (s : State) : State :=
  { s with
    failed := true, noteHardFail := true, mailbox := none, inflight := none, pin := .undef }

theorem exec_pinfault (s : State) : exec .pinfault s = .next (pinFaulted s) := rfl

@[simp] theorem pinFaulted_failed (s : State) : (pinFaulted s).failed = true := rfl

@[simp] theorem pinFaulted_inflight (s : State) : (pinFaulted s).inflight = none := rfl

/-- A second failure of the driver finds nothing left to write. -/
@[simp] theorem pinFaulted_pinFaulted (s : State) : pinFaulted (pinFaulted s) = pinFaulted s := rfl

/-- Settles O44: the state left is failed, so it discards and accepts nothing, and has nothing committed. -/
theorem pinfaultFollowsItsRule : Obligations.PinfaultFollowsItsRule := by
  intro s
  have hfailed := pinFaulted_failed s
  refine ⟨pinFaulted s, rfl, exec_pinfault s, ?_, ?_, ?_, fun off => ?_,
    exec_paccept_of_failed hfailed, exec_pflip_of_idle (pinFaulted_inflight s)⟩
  · rw [exec_pinfault, pinFaulted_pinFaulted]
  · rw [exec_pininit, deliver_of_failed hfailed]
  · rw [exec_pintgl, deliver_of_failed hfailed]
  · rw [exec_pintglt, deliver_of_failed hfailed]

end Sys2Proof.Machine
end

section
/-! The arbiter (43_arbiter.md): the switch sequence (R224) and the fallback (R226), the requests for a
source and for a rate (R230 to R234), the loss of a signal (R236), the clearing of flags (R240), the audio
message (R242) and the notifications of the pin driver (R244); and the obligations on them. -/

namespace Sys2Proof.Machine

open Sys2Proof.Safety

/-! ## The switch sequence and the fallback -/

theorem keptRate_of_rate {s : State} (h : s.rateValid = true) : keptRate s = some s.currentRate := if_pos h

theorem keptRate_of_no_rate {s : State} (h : s.rateValid = false) : keptRate s = none :=
  if_neg (Bool.eq_false_iff.mp h)

/-- Settles O25: the settings of a rate are R112's, whose index and arming are those of every rate. -/
theorem switchSequenceFollowsItsRule : Obligations.SwitchSequenceFollowsItsRule := by
  intro src s
  refine ⟨fun rate st hst => ?_, switchSeq_eq_afterSwitch src none s⟩
  obtain ⟨-, rfl⟩ := computeSettings_eq_some_iff.mp hst
  exact switchSeq_eq_afterSwitch src (some rate) s

/-- The two bits that a fallback sets (R226, R261). -/
theorem raise_fallback_raise (cause : Condition) (s : State) :
    raise .fallback (raise cause s) =
      { s with flags := s.flags ||| (1#8 <<< cause.code) ||| 0x80#8 } := rfl

/-- Settles O26: the fallback keeps a valid rate, and has none to keep without one. -/
theorem fallbackFollowsItsRule : Obligations.FallbackFollowsItsRule := by
  intro cause s
  refine ⟨fun hrate => ?_, fun hrate => ?_⟩
  · rw [fallBack, keptRate_of_rate hrate, raise_fallback_raise]
  · rw [fallBack, keptRate_of_no_rate hrate, raise_fallback_raise]

/-! ## A request for a source -/

theorem exec_selsrc (src : ClockSource) (s : State) :
    exec (.selsrc src) s = .next
      (if sourcePresent s.cfg src = false then raise .badCmd s
       else if flagSet s.flags .hardFail = true ∧ src ≠ .internal then raise .badCmd s
       else if src = s.activeSource then s
       else switchSeq src (keptRate s) s) := rfl

/-- A source that is not wired is refused (R230). -/
theorem exec_selsrc_of_unwired {src : ClockSource} {s : State} (h : sourcePresent s.cfg src = false) :
    exec (.selsrc src) s = .next (raise .badCmd s) := by
  rw [exec_selsrc, if_pos h]

/-- After a hard failure every source but Internal is refused, wired or not (R230). -/
theorem exec_selsrc_of_hardFail {src : ClockSource} {s : State} (hfail : flagSet s.flags .hardFail = true)
    (hsrc : src ≠ .internal) : exec (.selsrc src) s = .next (raise .badCmd s) := by
  rw [exec_selsrc, if_pos (And.intro hfail hsrc), ite_self]

section Granted

variable {src : ClockSource} {s : State} (hwired : sourcePresent s.cfg src = true)
  (hok : flagSet s.flags .hardFail = false ∨ src = .internal)
include hwired hok

/-- A request that neither test refuses is granted, and depends on the active source alone (R230). -/
theorem exec_selsrc_of_granted :
    exec (.selsrc src) s = .next (if src = s.activeSource then s else switchSeq src (keptRate s) s) := by
  have hpasses : ¬ (flagSet s.flags .hardFail = true ∧ src ≠ .internal) := by
    rwa [not_and_or, Bool.not_eq_true, not_not]
  rw [exec_selsrc, if_neg (by rw [hwired]; decide), if_neg hpasses]

theorem exec_selsrc_of_active (h : src = s.activeSource) : exec (.selsrc src) s = .next s := by
  rw [exec_selsrc_of_granted hwired hok, if_pos h]

theorem exec_selsrc_of_new (h : src ≠ s.activeSource) :
    exec (.selsrc src) s = .next (afterSwitch src (keptRate s) s) := by
  rw [exec_selsrc_of_granted hwired hok, if_neg h, switchSeq_eq_afterSwitch]

end Granted

/-- Settles O27: the two tests that refuse, then the active source, then the rate that is kept. -/
theorem selsrcFollowsItsRule : Obligations.SelsrcFollowsItsRule := by
  intro src s
  refine ⟨exec_selsrc_of_unwired, exec_selsrc_of_hardFail, fun hwired hok =>
    ⟨exec_selsrc_of_active hwired hok, fun hnew hrate => ?_, fun hnew hrate => ?_⟩⟩
  · rw [exec_selsrc_of_new hwired hok hnew, keptRate_of_no_rate hrate]
  · rw [exec_selsrc_of_new hwired hok hnew, keptRate_of_rate hrate]

/-! ## A request for a rate -/

theorem exec_setrate (freq : BitVec 32) (s : State) :
    exec (.setrate freq) s = .next (requestRate freq s) := rfl

/-- RATEIRQ differs from SETRATE only in its port (R234). -/
theorem exec_rateirq_eq_setrate (freq : BitVec 32) (s : State) :
    exec (.rateirq freq) s = exec (.setrate freq) s := rfl

/-- The rate in force is not set again (R232). -/
theorem requestRate_of_inForce {freq : BitVec 32} {s : State} (hrate : s.rateValid = true)
    (hfreq : freq = s.currentRate) : requestRate freq s = s := if_pos ⟨hrate, hfreq⟩

/-- Any other rate must have settings (R112). -/
theorem requestRate_of_not_inForce {freq : BitVec 32} {s : State}
    (hnew : s.rateValid = false ∨ freq ≠ s.currentRate) :
    requestRate freq s =
      if supported s.cfg freq.toNat then afterSwitch s.activeSource (some freq) s
      else raise .unsupportedFreq s := by
  obtain ⟨hrate, hfreq, -⟩ | ⟨-, hsup, h⟩ | ⟨-, hsup, h⟩ := requestRate_cases freq s
  · exact absurd hfreq (hnew.resolve_left (by rw [hrate]; decide))
  · rw [h, if_neg hsup]; rfl
  · rw [h, if_pos hsup]

/-- Settles O28: the rate in force, and the two answers to any other. -/
theorem setrateFollowsItsRule : Obligations.SetrateFollowsItsRule := by
  intro freq s
  rw [exec_setrate]
  refine ⟨fun hrate hfreq => ?_, fun hnew hsup => ?_, fun hnew hsup => ?_⟩
  · rw [requestRate_of_inForce hrate hfreq]
  · rw [requestRate_of_not_inForce hnew, if_neg hsup]; rfl
  · rw [requestRate_of_not_inForce hnew, if_pos hsup]

/-- Settles O29: SETRATE's rule, as the two instructions have one effect. -/
theorem rateirqFollowsItsRule : Obligations.RateirqFollowsItsRule := by
  intro freq s
  rw [exec_rateirq_eq_setrate]
  exact setrateFollowsItsRule freq s

/-! ## The loss of a signal -/

theorem exec_los (src : ClockSource) (s : State) :
    exec (.los src) s = .next (if src = s.activeSource ∧ src ≠ .internal then fallBack .los s else s) := rfl

/-- LOS and FALLBACK are bits 5 and 7 (R261). -/
theorem setFlag_los_fallback (flags : BitVec 8) :
    setFlag (setFlag flags .los) .fallback = flags ||| 0xA0#8 := BitVec.or_assoc ..

/-- Settles O30: the fallback with its cause LOS, or nothing. -/
theorem losFollowsItsRule : Obligations.LosFollowsItsRule := by
  intro src s
  rw [exec_los]
  refine ⟨fun hactive hexternal => ?_, fun hignored => ?_⟩
  · rw [if_pos ⟨hactive, hexternal⟩, fallBack_eq_afterSwitch, setFlag_los_fallback]
  · rw [if_neg (by rwa [not_and_or, not_not])]

/-! ## The clearing of flags, and the audio message -/

theorem exec_clrflags (mask : BitVec 8) (s : State) :
    exec (.clrflags mask) s = .next { s with flags := clearFlags s.flags mask } := rfl

/-- Each of the eight bits is the flag of a condition (R261). -/
theorem exists_code_eq {j : Nat} (hj : j < 8) : ∃ c : Condition, c.code = j := by
  match j, hj with
  | 0, _ => exact ⟨.unsupportedFreq, rfl⟩
  | 1, _ => exact ⟨.refTimeout, rfl⟩
  | 2, _ => exact ⟨.missedDeadline, rfl⟩
  | 3, _ => exact ⟨.timerStall, rfl⟩
  | 4, _ => exact ⟨.hardFail, rfl⟩
  | 5, _ => exact ⟨.los, rfl⟩
  | 6, _ => exact ⟨.badCmd, rfl⟩
  | 7, _ => exact ⟨.fallback, rfl⟩

/-- Bit 4 is the flag of HARD_FAIL and of no other condition (R261). -/
theorem code_eq_four_iff (c : Condition) : c.code = 4 ↔ c = .hardFail := by
  cases c <;> decide

/-- Settles O32: a bit is the flag of a condition, whose clearing is known. -/
theorem clrflagsFollowsItsRule : Obligations.ClrflagsFollowsItsRule := by
  intro mask s
  refine ⟨_, exec_clrflags mask s, rfl, fun j hj => ?_⟩
  obtain ⟨c, rfl⟩ := exists_code_eq hj
  simp only [getLsbD_clearFlags, ne_eq, code_eq_four_iff]

/-- Settles O33: AUDMSG answers the state it is given. -/
theorem audmsgChangesNothing : Obligations.AudmsgChangesNothing := fun _ _ => rfl

/-! ## The notifications of the pin driver -/

theorem noteEnabled_iff {s : State} :
    noteEnabled s = true ↔ s.noteMissed = true ∨ s.noteHardFail = true := by
  rw [noteEnabled, Bool.or_eq_true]

theorem exec_note_of_pending {s : State} (h : s.noteMissed = true ∨ s.noteHardFail = true) :
    exec .note s = .next (takeHardFail (takeMissed s)) := if_pos (noteEnabled_iff.mpr h)

/-- With no notification there is no NOTE (R244). -/
theorem exec_note_of_quiet {s : State} (hm : s.noteMissed = false) (hf : s.noteHardFail = false) :
    exec .note s = .refused (.notEnabled .note) :=
  if_neg (by rw [noteEnabled_iff, hm, hf]; decide)

/-- The missed deadline is taken, whether or not there is one. -/
theorem takeMissed_eq (s : State) :
    takeMissed s = { s with
      flags := if s.noteMissed then s.flags ||| 0x04#8 else s.flags
      noteMissed := false } := by
  cases h : s.noteMissed
  · rw [takeMissed, h, if_neg Bool.false_ne_true, if_neg Bool.false_ne_true, ← h]
  · rw [takeMissed, h, if_pos rfl, if_pos rfl]; rfl

theorem takeHardFail_of_none {s : State} (h : s.noteHardFail = false) : takeHardFail s = s :=
  if_neg (Bool.eq_false_iff.mp h)

/-- On Internal a hard failure is only recorded (R244). -/
theorem takeHardFail_of_internal {s : State} (h : s.noteHardFail = true)
    (hsrc : s.activeSource = .internal) :
    takeHardFail s = { s with flags := s.flags ||| 0x10#8, noteHardFail := false } := by
  rw [takeHardFail, if_pos h, if_pos hsrc]; rfl

/-- HARD_FAIL and FALLBACK are bits 4 and 7 (R261). -/
theorem setFlag_hardFail_fallback (flags : BitVec 8) :
    setFlag (setFlag flags .hardFail) .fallback = flags ||| 0x90#8 := BitVec.or_assoc ..

/-- On any other source a hard failure falls back (R244). -/
theorem takeHardFail_of_external {s : State} (h : s.noteHardFail = true)
    (hsrc : s.activeSource ≠ .internal) :
    takeHardFail s = afterSwitch .internal (rateInForce s)
      { s with flags := s.flags ||| 0x90#8, noteHardFail := false } := by
  rw [takeHardFail, if_pos h, if_neg hsrc, fallBack_eq_afterSwitch, setFlag_hardFail_fallback]; rfl

/-- Taking the missed deadline leaves what decides about the hard failure. -/
@[simp] theorem takeMissed_noteHardFail (s : State) : (takeMissed s).noteHardFail = s.noteHardFail := by
  rw [takeMissed_eq]

@[simp] theorem takeMissed_activeSource (s : State) : (takeMissed s).activeSource = s.activeSource := by
  rw [takeMissed_eq]

@[simp] theorem rateInForce_takeMissed (s : State) : rateInForce (takeMissed s) = rateInForce s := by
  rw [takeMissed_eq]; rfl

/-- Settles O37: the missed deadline is taken first, and leaves the hard failure, the source and the rate
that decide the rest. -/
theorem noteFollowsItsRule : Obligations.NoteFollowsItsRule := by
  intro s
  refine ⟨fun hm hf => ?_, fun hf hsrc => ?_, fun hf hsrc => ?_, exec_note_of_quiet⟩
  · rw [exec_note_of_pending (.inl hm), takeHardFail_of_none ((takeMissed_noteHardFail s).trans hf),
      takeMissed_eq, if_pos hm]
  · rw [exec_note_of_pending (.inr hf), takeHardFail_of_internal
      ((takeMissed_noteHardFail s).trans hf) ((takeMissed_activeSource s).trans hsrc), takeMissed_eq]
  · rw [exec_note_of_pending (.inr hf), takeHardFail_of_external
      ((takeMissed_noteHardFail s).trans hf) ((takeMissed_activeSource s).symm ▸ hsrc),
      rateInForce_takeMissed, takeMissed_eq]

end Sys2Proof.Machine
end

section
/-! The record of a hard failure (60_exceptions.md R266, 43_arbiter.md section 5): once flags[4] is set and
Internal is active, no instruction but RESET ends either; and the obligation on runs without RESET. -/

namespace Sys2Proof.Machine

open Sys2Proof.Safety

/-! ## Runs of instructions -/

/-- What each permitted instruction keeps, every completed run of permitted instructions keeps. -/
theorem runInstrs_keeps {Keeps : State → Prop} {Permitted : Instr → Prop}
    (hexec : ∀ i s t, Permitted i → Keeps s → exec i s = .next t → Keeps t) :
    ∀ (is : List Instr) (s t : State), (∀ i ∈ is, Permitted i) → Keeps s →
      runInstrs is s = .next t → Keeps t
  | [], _, _, _, hs, h => by cases h; exact hs
  | i :: is, s, t, hall, hs, h => by
    obtain ⟨hi, his⟩ := List.forall_mem_cons.mp hall
    simp only [runInstrs] at h
    cases hexc : exec i s with
    | next u =>
      rw [hexc] at h
      exact runInstrs_keeps hexec is u t his (hexec i s u hi hs hexc) h
    | fault r => rw [hexc] at h; cases h
    | refused r => rw [hexc] at h; cases h

/-! ## The active source after each operation -/

@[simp] theorem switchSeq_activeSource (src : ClockSource) (r : Option (BitVec 32)) (s : State) :
    (switchSeq src r s).activeSource = src := by cases r <;> rfl

@[simp] theorem fallBack_activeSource (cause : Condition) (s : State) :
    (fallBack cause s).activeSource = .internal := switchSeq_activeSource ..

@[simp] theorem requestRate_activeSource (freq : BitVec 32) (s : State) :
    (requestRate freq s).activeSource = s.activeSource := by
  obtain ⟨-, -, h⟩ | ⟨-, -, h⟩ | ⟨-, -, h⟩ := requestRate_cases freq s <;> rw [h]; rfl

@[simp] theorem observe_activeSource (count : Nat) (s : State) :
    (observe count s).activeSource = s.activeSource := by
  obtain ⟨-, h⟩ | ⟨-, -, h⟩ | ⟨-, -, h⟩ := observe_cases count s <;> rw [h]; rfl

@[simp] theorem illegalWord_activeSource (w : Word) (s : State) :
    (illegalWord w s).activeSource = s.activeSource := by
  obtain ⟨-, h⟩ | ⟨-, h⟩ := illegalWord_cases w s <;> rw [h]

@[simp] theorem deliver_activeSource (r : PinRequest) (s : State) :
    (deliver r s).activeSource = s.activeSource := by
  obtain ⟨-, h⟩ | ⟨-, h⟩ := deliver_cases r s <;> rw [h]

@[simp] theorem acceptRequest_activeSource (r : PinRequest) (s : State) :
    (acceptRequest r s).activeSource = s.activeSource := by
  cases r with
  | init => rfl
  | immediate => rfl
  | timed off => obtain ⟨-, h⟩ | ⟨-, h⟩ := acceptTimed_cases (offsetOf off) s <;> rw [acceptRequest, h]

@[simp] theorem takeRequest_activeSource (s : State) : (takeRequest s).activeSource = s.activeSource := by
  unfold takeRequest
  split
  · exact acceptRequest_activeSource ..
  · rfl

theorem takeHardFail_activeSource_internal {s : State} (hs : s.activeSource = .internal) :
    (takeHardFail s).activeSource = .internal := by
  cases h : s.noteHardFail
  · rw [takeHardFail_of_none h, hs]
  · rw [takeHardFail_of_internal h hs, hs]

/-! ## Every instruction -/

/-- With HARD_FAIL set SELSRC gives no source but Internal (R230). -/
theorem exec_selsrc_internal {src : ClockSource} {s t : State}
    (hfail : flagSet s.flags .hardFail = true) (hs : s.activeSource = .internal)
    (h : exec (.selsrc src) s = .next t) : t.activeSource = .internal := by
  by_cases hsrc : src = .internal
  · subst hsrc
    cases hwired : sourcePresent s.cfg .internal with
    | false => rw [exec_selsrc_of_unwired hwired] at h; cases h; exact hs
    | true => rw [exec_selsrc_of_active hwired (.inr rfl) hs.symm] at h; cases h; exact hs
  · rw [exec_selsrc_of_hardFail hfail hsrc] at h
    cases h
    exact hs

/-- Internal stays active under HARD_FAIL: SELSRC is refused, and the steps that change the source by
themselves change it to Internal (R226, R152, R300). -/
theorem exec_keepsInternal {i : Instr} {s t : State} (hfail : flagSet s.flags .hardFail = true)
    (hs : s.activeSource = .internal) (h : exec i s = .next t) : t.activeSource = .internal := by
  cases i with
  | selsrc src => exact exec_selsrc_internal hfail hs h
  | setrate freq => cases h; exact (requestRate_activeSource freq s).trans hs
  | rateirq freq => cases h; exact (requestRate_activeSource freq s).trans hs
  | refev src kind count =>
    cases h
    simp only [apply_ite State.activeSource, observe_activeSource, ite_self, hs]
  | los src =>
    cases h
    simp only [apply_ite State.activeSource, fallBack_activeSource, hs, ite_self]
  | status => cases h; exact (illegalWord_activeSource ..).trans hs
  | settings => cases h; exact (illegalWord_activeSource ..).trans hs
  | getstatus => cases h; exact hs
  | clrflags => cases h; exact hs
  | synget => cases h; exact hs
  | audmsg => cases h; exact hs
  | pininit => cases h; exact (deliver_activeSource ..).trans hs
  | pintgl => cases h; exact (deliver_activeSource ..).trans hs
  | pintglt => cases h; exact (deliver_activeSource ..).trans hs
  | pinfault => cases h; exact hs
  | timeout => obtain ⟨-, rfl⟩ := whenEnabled_next h; exact switchSeq_activeSource ..
  | note =>
    obtain ⟨-, rfl⟩ := whenEnabled_next h
    exact takeHardFail_activeSource_internal ((takeMissed_activeSource s).trans hs)
  | paccept => obtain ⟨-, rfl⟩ := whenEnabled_next h; exact (takeRequest_activeSource s).trans hs
  | pflip => obtain ⟨-, rfl⟩ := whenEnabled_next h; exact hs
  | tick => obtain ⟨-, rfl⟩ := whenEnabled_next h; exact hs
  | reset => cases h; rfl

/-- HARD_FAIL is cleared by RESET alone (R240, R317). -/
theorem exec_keepsHardFail {i : Instr} {s t : State} (hreset : i ≠ .reset)
    (hs : flagSet s.flags .hardFail = true) (h : exec i s = .next t) :
    flagSet t.flags .hardFail = true := by
  by_contra hcleared
  obtain hr | ⟨_, -, -, hne⟩ := flagsAreSticky i s t .hardFail h hs (Bool.not_eq_true _ ▸ hcleared)
  · exact hreset hr
  · exact hne rfl

/-- A hard failure is recorded: its flag is set and the arbiter has fallen back to Internal (R244). -/
def HardFailRecorded (s : State) : Prop :=
  flagSet s.flags .hardFail = true ∧ s.activeSource = .internal

theorem exec_keepsRecord {i : Instr} {s t : State} (hreset : i ≠ .reset) (hs : HardFailRecorded s)
    (h : exec i s = .next t) : HardFailRecorded t :=
  let ⟨hfail, hsrc⟩ := hs
  ⟨exec_keepsHardFail hreset hfail h, exec_keepsInternal hfail hsrc h⟩

/-- Settles O54: by the invariant the first state has the record, and each instruction keeps it. -/
theorem hardFailureLastsUntilReset : Obligations.HardFailureLastsUntilReset := by
  intro is s t hi hfail hreset h
  have hrecord : HardFailRecorded s := ⟨hfail, hi.hardFail_internal hfail⟩
  exact runInstrs_keeps (fun _ _ _ => exec_keepsRecord) is s t
    (fun _ hmem => ne_of_mem_of_not_mem hmem hreset) hrecord h

end Sys2Proof.Machine
end

section
/-! Time in a run (60_exceptions.md R289, 42_pin_driver.md R196): what the pin driver has to do is a request
that waits and a flip that is committed; with no request delivered and no TICK taken it only gets less, and
while it stays one of PACCEPT, PFLIP and TICK stays enabled; and the obligation that a TICK is taken. -/

namespace Sys2Proof.Machine

open Sys2Proof.Safety

/-! ## The work of the pin driver -/

/-- The elements of a state that decide which step of the driver or of the time base comes next. -/
structure PinWork where
  cfg : Params
  mailbox : Option PinRequest
  inflight : Option Int

def pinWork (s : State) : PinWork where
  cfg := s.cfg
  mailbox := s.mailbox
  inflight := s.inflight

/-- How much there is to do: the acceptance of a request can leave a flip to do. -/
def PinWork.load (w : PinWork) : Nat := 2 * w.mailbox.isSome.toNat + w.inflight.isSome.toNat

/-- What R43 says of the driver's work: a failed driver has none (I-h), and no flip is late (I-i). -/
structure PinWorkInv (s : State) : Prop where
  failed_idle : s.failed = true → s.mailbox = none ∧ s.inflight = none
  inflight_low : ∀ rem, s.inflight = some rem → -(s.cfg.jitterTicks : Int) ≤ rem

theorem pinWorkInv_of_inv {s : State} (hi : Inv s) : PinWorkInv s where
  failed_idle hf := let ⟨hm, hr, _⟩ := hi.failed_idle hf; ⟨hm, hr⟩
  inflight_low := hi.inflight_low

theorem pinWorkInv_of_idle {s : State} (hm : s.mailbox = none) (hf : s.inflight = none) :
    PinWorkInv s where
  failed_idle _ := ⟨hm, hf⟩
  inflight_low rem hr := by rw [hf] at hr; cases hr

theorem pinWork_of_pinView {s t : State} {missed hard : Bool}
    (h : pinView t = { pinView s with noteMissed := missed, noteHardFail := hard }) :
    pinWork t = pinWork s :=
  congrArg (fun v => PinWork.mk v.cfg v.mailbox v.inflight) h

theorem pinWorkInv_of_pinView {s t : State} {missed hard : Bool}
    (h : pinView t = { pinView s with noteMissed := missed, noteHardFail := hard })
    (hs : PinWorkInv s) : PinWorkInv t := by
  have hfailed : t.failed = s.failed := congrArg (·.failed) h
  have hcfg : t.cfg = s.cfg := congrArg (·.cfg) h
  have hmail : t.mailbox = s.mailbox := congrArg (·.mailbox) h
  have hfly : t.inflight = s.inflight := congrArg (·.inflight) h
  constructor
  · rw [hfailed, hmail, hfly]; exact hs.failed_idle
  · rw [hcfg, hfly]; exact hs.inflight_low

/-- Dropping all work is no change where there was none. -/
theorem pinWork_dropped (s : State) {t : State} (hc : t.cfg = s.cfg) (hm : t.mailbox = none)
    (hf : t.inflight = none) : pinWork t = pinWork s ∨ (pinWork t).load < (pinWork s).load := by
  cases hms : s.mailbox <;> cases hfs : s.inflight <;>
    simp [pinWork, PinWork.load, hc, hm, hf, hms, hfs]

/-! ## The acceptance of a request -/

theorem acceptRequest_frame (r : PinRequest) (s : State) :
    (acceptRequest r s).cfg = s.cfg ∧ (acceptRequest r s).mailbox = s.mailbox ∧
      (acceptRequest r s).failed = s.failed := by
  cases r with
  | init => exact ⟨rfl, rfl, rfl⟩
  | immediate => exact ⟨rfl, rfl, rfl⟩
  | timed off =>
    obtain ⟨-, h⟩ | ⟨-, h⟩ := acceptTimed_cases (offsetOf off) s <;> rw [acceptRequest, h] <;>
      exact ⟨rfl, rfl, rfl⟩

/-- A flip is committed to the present or to a later instant (R188, R190). -/
theorem acceptRequest_inflight {r : PinRequest} {s : State} (hidle : s.inflight = none) {rem : Int}
    (h : (acceptRequest r s).inflight = some rem) : 0 ≤ rem := by
  cases r with
  | init => cases hidle.symm.trans h
  | immediate => cases h; exact Int.le_refl 0
  | timed off =>
    obtain ⟨-, ha⟩ | ⟨hlead, ha⟩ := acceptTimed_cases (offsetOf off) s <;>
      rw [acceptRequest, ha] at h <;> cases h
    · exact Int.le_refl 0
    · omega

/-- PACCEPT empties the mailbox of a serving driver, and commits to no late flip. -/
theorem exec_paccept_work {s t : State} (h : exec .paccept s = .next t) :
    s.failed = false ∧ s.mailbox ≠ none ∧ t.failed = false ∧ t.mailbox = none ∧
      ∀ rem, t.inflight = some rem → 0 ≤ rem := by
  obtain ⟨he, rfl⟩ := whenEnabled_next h
  obtain ⟨hserving, hidle, hwaiting⟩ := pacceptEnabled_iff.mp he
  obtain ⟨r, hr⟩ := Option.ne_none_iff_exists'.mp hwaiting
  rw [takeRequest_of_waiting hr]
  obtain ⟨-, hmail, hfailed⟩ := acceptRequest_frame r { s with mailbox := none }
  exact ⟨hserving, hwaiting, hfailed.trans hserving, hmail,
    fun rem hrem => acceptRequest_inflight (s := { s with mailbox := none }) hidle hrem⟩

/-! ## What an instruction does to the work -/

theorem pinWorkInv_deliver (r : PinRequest) {s : State} (hs : PinWorkInv s) :
    PinWorkInv (deliver r s) := by
  obtain ⟨-, h⟩ | ⟨hserving, h⟩ := deliver_cases r s <;> rw [h]
  · exact hs
  · exact { hs with failed_idle := fun hf => absurd hf (Bool.eq_false_iff.mp hserving) }

/-- TICK is taken only while the countdown is above its last value (R196). -/
theorem pinWorkInv_tick {s t : State} (hs : PinWorkInv s) (h : exec .tick s = .next t) :
    PinWorkInv t := by
  obtain ⟨he, rfl⟩ := whenEnabled_next h
  have hopen := windowOpen_iff.mp (tickEnabled_iff.mp he).2
  constructor
  · intro hf
    obtain ⟨hm, hr⟩ := hs.failed_idle hf
    exact ⟨hm, by rw [hr, Option.map_none]⟩
  · intro rem hrem
    obtain ⟨rem', hfly, rfl⟩ := Option.map_eq_some_iff.mp hrem
    exact Int.le_sub_one_of_lt (hopen rem' hfly)

theorem exec_pinWorkInv {i : Instr} {s t : State} (hs : PinWorkInv s) (h : exec i s = .next t) :
    PinWorkInv t := by
  by_cases hl : i.mnemonic ∈ loopSide
  · obtain ⟨_, _, hv⟩ := pinView_exec_loop_notes hl h
    exact pinWorkInv_of_pinView hv hs
  cases i with
  | pininit => cases h; exact pinWorkInv_deliver _ hs
  | pintgl => cases h; exact pinWorkInv_deliver _ hs
  | pintglt => cases h; exact pinWorkInv_deliver _ hs
  | pinfault => cases h; exact pinWorkInv_of_idle rfl rfl
  | reset => cases h; exact pinWorkInv_of_idle rfl rfl
  | paccept =>
    obtain ⟨-, -, hserving, -, hrem⟩ := exec_paccept_work h
    exact {
      failed_idle := fun hf => absurd hf (Bool.eq_false_iff.mp hserving)
      inflight_low := fun rem hr => by have := hrem rem hr; omega }
  | pflip =>
    obtain ⟨-, rfl⟩ := whenEnabled_next h
    exact { failed_idle := fun hf => ⟨(hs.failed_idle hf).1, rfl⟩, inflight_low := nofun }
  | tick => exact pinWorkInv_tick hs h
  | _ => exact absurd (by simp [Instr.mnemonic, loopSide]) hl

/-- PACCEPT and PFLIP lessen the work: a request accepted leaves at most a flip. -/
theorem load_exec_lt {k : InternalStep} {s t : State} (hk : k = .paccept ∨ k = .pflip)
    (h : exec k.instr s = .next t) : (pinWork t).load < (pinWork s).load := by
  obtain rfl | rfl := hk
  · obtain ⟨-, hwaiting, -, hmail, -⟩ := exec_paccept_work h
    have hs : s.mailbox.isSome = true := Option.isSome_iff_ne_none.mpr hwaiting
    have hle : t.inflight.isSome.toNat ≤ 1 := Bool.toNat_le _
    simp only [pinWork, PinWork.load, hmail, hs, Option.isSome_none, Bool.toNat_false, Bool.toNat_true]
    omega
  · obtain ⟨he, rfl⟩ := whenEnabled_next h
    obtain ⟨rem, hfly, -⟩ := pflipEnabled_iff.mp he
    simp [pinWork, PinWork.load, hfly]

/-- The rows that deliver a pin request (R184). -/
def requestRows : List Mnemonic := [.pininit, .pintgl, .pintglt]

/-- No instruction but TICK and a request changes the work without lessening it. -/
theorem exec_pinWork {i : Instr} {s t : State} (htick : i ≠ .tick) (hreq : i.mnemonic ∉ requestRows)
    (h : exec i s = .next t) : pinWork t = pinWork s ∨ (pinWork t).load < (pinWork s).load := by
  by_cases hl : i.mnemonic ∈ loopSide
  · obtain ⟨_, _, hv⟩ := pinView_exec_loop_notes hl h
    exact .inl (pinWork_of_pinView hv)
  cases i with
  | pinfault => cases h; exact pinWork_dropped s rfl rfl rfl
  | reset => cases h; exact pinWork_dropped s rfl rfl rfl
  | paccept => exact .inr (load_exec_lt (.inl rfl) h)
  | pflip => exact .inr (load_exec_lt (.inr rfl) h)
  | tick => exact absurd rfl htick
  | pininit | pintgl | pintglt => simp [Instr.mnemonic, requestRows] at hreq
  | _ => exact absurd (by simp [Instr.mnemonic, loopSide]) hl

/-! ## The step that the work waits for -/

/-- The step of the driver or of the time base that comes next: an urgent one first (R196). -/
def PinWork.next (w : PinWork) : InternalStep :=
  match w.mailbox, w.inflight with
  | some _, none => .paccept
  | none, none => .tick
  | _, some rem => if -(w.cfg.jitterTicks : Int) < rem then .tick else .pflip

theorem PinWork.next_cases (w : PinWork) :
    w.next = .tick ∨ w.next = .paccept ∨ w.next = .pflip := by
  unfold PinWork.next
  split
  · exact .inr (.inl rfl)
  · exact .inl rfl
  · split
    · exact .inl rfl
    · exact .inr (.inr rfl)

theorem PinWork.next_mem_ownSteps (w : PinWork) : w.next ∈ ownSteps := by
  obtain h | h | h := w.next_cases <;> rw [h] <;> decide

/-- It is enabled, as a driver with a request serves and no flip is late. -/
theorem stepEnabled_next {s : State} (hs : PinWorkInv s) :
    stepEnabled s (pinWork s).next = true := by
  cases hfly : s.inflight with
  | none =>
    cases hmail : s.mailbox with
    | none =>
      have hidle : ¬ pacceptEnabled s = true := fun he => (pacceptEnabled_iff.mp he).2.2 hmail
      have hopen : windowOpen s = true := windowOpen_iff.mpr (by simp [hfly])
      simp only [pinWork, hfly, hmail, PinWork.next]
      exact tickEnabled_iff.mpr ⟨hidle, hopen⟩
    | some r =>
      have hserving : s.failed = false := by
        by_contra hf
        cases hmail.symm.trans (hs.failed_idle (Bool.not_eq_false _ ▸ hf)).1
      simp only [pinWork, hfly, hmail, PinWork.next]
      exact pacceptEnabled_iff.mpr ⟨hserving, hfly, by simp [hmail]⟩
  | some rem =>
    have hlow := hs.inflight_low rem hfly
    have hbusy : ¬ pacceptEnabled s = true := fun he => by
      cases hfly.symm.trans (pacceptEnabled_iff.mp he).2.1
    simp only [pinWork, hfly, PinWork.next]
    split
    next hopen => exact tickEnabled_iff.mpr ⟨hbusy, windowOpen_iff.mpr (by simpa [hfly] using hopen)⟩
    next hclosed => exact pflipEnabled_iff.mpr ⟨rem, hfly, hlow, by omega⟩

/-! ## The step of the machine -/

/-- A step that goes on has taken an internal step and run it, or a word and run what it decodes to or
handled it as illegal, on a state with the same pin side. -/
theorem step_taken {s t : State} (h : step s = .next t) :
    ∃ u, pinView u = pinView s ∧
      ((∃ k, taken s = some (.internal k) ∧ exec k.instr u = .next t) ∨
       (∃ w i, taken s = some (.word w) ∧ decode s.cfg.timerMod w = .ok i ∧ exec i u = .next t) ∨
       ∃ w, taken s = some (.word w) ∧ t = illegalWord w u) := by
  obtain ⟨e, u, ht, -⟩ := step_take h
  obtain ⟨hview, hcfg⟩ : pinView u = pinView s ∧ u.cfg = s.cfg := by
    obtain ⟨_, _, _, _, rfl⟩ := take_frame ht
    exact ⟨rfl, rfl⟩
  cases e with
  | internal k =>
    rw [step_of_take_internal ht] at h
    exact ⟨{ u with owed := u.owed.erase k }, hview, .inl ⟨k, taken_of_take ht, h⟩⟩
  | word w =>
    refine ⟨u, hview, .inr ?_⟩
    simp only [step, fetch, ht, fetchEvent, fetchWord, hcfg] at h
    cases hdec : decode s.cfg.timerMod w with
    | ok i => rw [hdec] at h; exact .inl ⟨w, i, taken_of_take ht, hdec, h⟩
    | error _ => rw [hdec] at h; cases h; exact .inr ⟨w, taken_of_take ht, rfl⟩

theorem step_pinWorkInv {s t : State} (hs : PinWorkInv s) (h : step s = .next t) : PinWorkInv t := by
  obtain ⟨u, hu, hrun⟩ := step_taken h
  have hus : PinWorkInv u := pinWorkInv_of_pinView hu hs
  obtain ⟨k, -, hexec⟩ | ⟨w, i, -, -, hexec⟩ | ⟨w, -, rfl⟩ := hrun
  · exact exec_pinWorkInv hus hexec
  · exact exec_pinWorkInv hus hexec
  · exact pinWorkInv_of_pinView (pinView_illegalWord w u) hus

/-- A step that takes neither TICK nor the word of a request leaves the work or lessens it. -/
theorem step_pinWork {s t : State} (htick : taken s ≠ some (.internal .tick))
    (hreq : ∀ w i, taken s = some (.word w) → decode s.cfg.timerMod w = .ok i →
      i.mnemonic ∉ requestRows)
    (h : step s = .next t) : pinWork t = pinWork s ∨ (pinWork t).load < (pinWork s).load := by
  obtain ⟨u, hu, hrun⟩ := step_taken h
  have hwork : pinWork u = pinWork s := pinWork_of_pinView hu
  rw [← hwork]
  obtain ⟨k, hk, hexec⟩ | ⟨w, i, hw, hdec, hexec⟩ | ⟨w, -, rfl⟩ := hrun
  · have hne : k ≠ .tick := by rintro rfl; exact htick hk
    exact exec_pinWork (InternalStep.instr_injective.ne hne) (by cases k <;> decide) hexec
  · have hne : i ≠ .tick := by rintro rfl; cases opcodeOfInstr_of_decode hdec
    exact exec_pinWork hne (hreq w i hw hdec) hexec
  · exact .inl (pinWork_of_pinView (pinView_illegalWord w u))

/-- A step that takes PACCEPT or PFLIP lessens the work. -/
theorem step_load_lt {s t : State} {k : InternalStep} (hk : k = .paccept ∨ k = .pflip)
    (htaken : taken s = some (.internal k)) (h : step s = .next t) :
    (pinWork t).load < (pinWork s).load := by
  obtain ⟨u, hu, ⟨j, hj, hexec⟩ | ⟨w, _, hw, -⟩ | ⟨w, hw, -⟩⟩ := step_taken h
  · obtain rfl : k = j := by simpa [htaken] using hj
    rw [← pinWork_of_pinView hu]
    exact load_exec_lt hk hexec
  · cases htaken.symm.trans hw
  · cases htaken.symm.trans hw

/-! ## Runs -/

section Stalled

variable {inputs : Nat → List Event} {run : Nat → State} {first : Nat} (hrun : IsRun inputs run)
  (htick : ∀ m, first ≤ m → takenAt inputs run m ≠ some (.internal .tick))
  (hreq : ∀ m, first ≤ m → ¬ deliversRequest inputs run m)
include hrun htick hreq

/-- Without a TICK and a request each step leaves the work or lessens it. -/
theorem run_pinWork {m : Nat} (hm : first ≤ m) :
    pinWork (run (m + 1)) = pinWork (run m) ∨ (pinWork (run (m + 1))).load < (pinWork (run m)).load :=
  step_pinWork (s := arrive (inputs m) (run m)) (htick m hm)
    (fun w i hw hdec hmem => hreq m hm ⟨w, i, hw, hdec, hmem⟩) (hrun m)

/-- Work that is never lessened stays as it is. -/
theorem run_pinWork_const {m : Nat} (hm : first ≤ m)
    (hmin : ∀ j, first ≤ j → ¬ (pinWork (run j)).load < (pinWork (run m)).load) {j : Nat} (hj : m ≤ j) :
    pinWork (run j) = pinWork (run m) := by
  induction j, hj using Nat.le_induction with
  | base => rfl
  | succ j hj ih =>
    have hfirst : first ≤ j := Nat.le_trans hm hj
    obtain hsame | hless := run_pinWork hrun htick hreq hfirst
    · exact hsame.trans ih
    · rw [ih] at hless
      exact absurd hless (hmin (j + 1) (Nat.le_succ_of_le hfirst))

/-- No run is stalled: its least work would stay for ever, and with it an enabled step that fairness makes
the block take, which is a TICK or lessens the work. -/
theorem not_stalled (hi : ∀ m, PinWorkInv (run m)) : False := by
  obtain ⟨m, hleast⟩ := exists_minimalFor_of_wellFoundedLT (fun j => first ≤ j)
    (fun j => (pinWork (run j)).load) ⟨first, Nat.le_refl first⟩
  have hm : first ≤ m := hleast.1
  have hmin : ∀ j, first ≤ j → ¬ (pinWork (run j)).load < (pinWork (run m)).load :=
    fun j hj => hleast.not_lt hj
  have hconst : ∀ j, m ≤ j → pinWork (run j) = pinWork (run m) := fun j hj =>
    run_pinWork_const hrun htick hreq hm hmin hj
  obtain ⟨j, hj, hdis | htaken⟩ := own_step_taken_or_disabled hrun m (pinWork (run m)).next_mem_ownSteps
  · rw [← hconst j hj, stepEnabled_next (hi j)] at hdis
    cases hdis
  · have hfirst : first ≤ j := Nat.le_trans hm hj
    obtain h | h := (pinWork (run m)).next_cases
    · exact htick j hfirst (h ▸ htaken)
    · have hless : (pinWork (run (j + 1))).load < (pinWork (run j)).load :=
        step_load_lt (s := arrive (inputs j) (run j)) h htaken (hrun j)
      rw [hconst j hj] at hless
      exact hmin (j + 1) (Nat.le_succ_of_le hfirst) hless

end Stalled

theorem run_pinWorkInv {inputs : Nat → List Event} {run : Nat → State} (hrun : IsRun inputs run)
    (h0 : PinWorkInv (run 0)) (n : Nat) : PinWorkInv (run n) := by
  induction n with
  | zero => exact h0
  | succ n ih =>
    exact step_pinWorkInv (s := arrive (inputs n) (run n)) (pinWorkInv_of_pinView rfl ih) (hrun n)

/-- Settles O43: from an instant without a later TICK the requests come to an end, and from there the run
would be stalled. -/
theorem timePassesInEveryPacedRun : Obligations.TimePassesInEveryPacedRun := by
  intro inputs run hrun hpaced hi n
  by_contra! hnever
  obtain ⟨last, hlast⟩ := hpaced n hnever
  exact not_stalled (first := max n last) hrun (fun m hm => hnever m (le_of_max_le_left hm))
    (fun m hm => hlast m (le_of_max_le_right hm)) (run_pinWorkInv hrun (pinWorkInv_of_inv hi))

end Sys2Proof.Machine
end

section
/-! What an instruction can do, said once: every instruction that completes writes
what the pin driver writes, ticks, resets, sets flags and takes notifications, answers, observes a reference
event or switches; and which elements every one of these effects leaves as they were. -/

namespace Sys2Proof.Machine

open Sys2Proof.Safety

/-- The rows that read and answer (R320). -/
def readRows : List Mnemonic := [.getstatus, .synget]

/-- What an instruction `i` that completes in `s` has made of it. -/
inductive Effect (s : State) : Instr → State → Prop where
  /-- The pin driver writes its own elements, and never ends its failure (R184, R188, R192, R198). -/
  | driven {i : Instr} (pin : PinLevel) (mailbox : Option PinRequest) (inflight : Option Int)
      (failed missed hard : Bool) (hfailed : s.failed = true → failed = true) :
      Effect s i { s with
        pin := pin, mailbox := mailbox, inflight := inflight
        failed := failed, noteMissed := missed, noteHardFail := hard }
  /-- Time passes (R196). -/
  | ticked (wdog : Nat) (inflight : Option Int) :
      Effect s .tick { s with wdog := wdog, inflight := inflight, now := s.now + 1 }
  /-- The whole state is restored (R300). -/
  | restored {t : State} (h : execReset s = .next t) : Effect s .reset t
  /-- Flags and notifications change, or nothing does (R96, R240, R244). -/
  | flagged {i : Instr} (flags : BitVec 8) (missed hard : Bool) :
      Effect s i { s with flags := flags, noteMissed := missed, noteHardFail := hard }
  /-- A read is answered (R238, R120). -/
  | answered {i : Instr} (w : Word) (hread : i.mnemonic ∈ readRows) : Effect s i (respond w s)
  /-- A reference event is forwarded (R150). -/
  | observed (src : ClockSource) (kind : EventKind) (count : BitVec 32) (hf : forwarded src s = true) :
      Effect s (.refev src kind count) (observe count.toNat s)
  /-- Flags and notifications change, and a switch sequence runs (R224, R226). -/
  | switched {i : Instr} (src : ClockSource) (r : Option (BitVec 32)) (flags : BitVec 8)
      (missed hard : Bool) :
      Effect s i (afterSwitch src r
        { s with flags := flags, noteMissed := missed, noteHardFail := hard })

/-! ## The effect of each shared operation -/

section Operations

variable {i : Instr} {s : State}

theorem effect_self : Effect s i s := .flagged s.flags s.noteMissed s.noteHardFail

theorem effect_raise (c : Condition) : Effect s i (raise c s) :=
  .flagged (setFlag s.flags c) s.noteMissed s.noteHardFail

theorem effect_afterSwitch (src : ClockSource) (r : Option (BitVec 32)) :
    Effect s i (afterSwitch src r s) := .switched src r s.flags s.noteMissed s.noteHardFail

theorem effect_switchSeq (src : ClockSource) (r : Option (BitVec 32)) :
    Effect s i (switchSeq src r s) := by
  rw [switchSeq_eq_afterSwitch]; exact effect_afterSwitch src r

theorem effect_fallBack (cause : Condition) : Effect s i (fallBack cause s) := by
  rw [fallBack_eq_afterSwitch]; exact .switched _ _ _ s.noteMissed s.noteHardFail

theorem effect_requestRate (freq : BitVec 32) : Effect s i (requestRate freq s) := by
  obtain ⟨-, -, h⟩ | ⟨-, -, h⟩ | ⟨-, -, h⟩ := requestRate_cases freq s <;> rw [h]
  · exact effect_self
  · exact effect_raise .unsupportedFreq
  · exact effect_afterSwitch s.activeSource (some freq)

theorem effect_illegalWord (w : Word) : Effect s i (illegalWord w s) :=
  iteInduction (fun _ => effect_self) fun _ => effect_raise .badCmd

theorem effect_deliver (r : PinRequest) : Effect s i (deliver r s) := by
  obtain ⟨-, h⟩ | ⟨-, h⟩ := deliver_cases r s <;> rw [h]
  · exact effect_self
  · exact .driven s.pin (some r) s.inflight s.failed s.noteMissed s.noteHardFail id

theorem effect_takeRequest : Effect s i (takeRequest s) := by
  cases hmail : s.mailbox with
  | none => rw [takeRequest, hmail]; exact effect_self
  | some r =>
    rw [takeRequest_of_waiting hmail]
    cases r with
    | init => exact .driven _ none s.inflight s.failed s.noteMissed s.noteHardFail id
    | immediate => exact .driven s.pin none (some 0) s.failed s.noteMissed s.noteHardFail id
    | timed off =>
      obtain ⟨-, h⟩ | ⟨-, h⟩ := acceptTimed_cases (offsetOf off) { s with mailbox := none } <;>
        rw [acceptRequest, h]
      · exact .driven s.pin none (some 0) s.failed true s.noteHardFail id
      · exact .driven s.pin none (some (offsetOf off)) s.failed s.noteMissed s.noteHardFail id

/-- NOTE records the missed deadline, and then the hard failure with or without a fallback (R244). -/
theorem effect_takeNotes : Effect s i (takeHardFail (takeMissed s)) := by
  rw [takeMissed_eq]
  refine iteInduction (fun _ => iteInduction (fun _ => ?_) fun _ => ?_) fun _ => ?_
  · exact .flagged _ false false
  · rw [fallBack_eq_afterSwitch]; exact .switched _ _ _ false false
  · exact .flagged _ false s.noteHardFail

end Operations

/-! ## Every instruction -/

/-- The effects are all that an instruction can do. -/
theorem exec_effect {i : Instr} {s t : State} (h : exec i s = .next t) : Effect s i t := by
  cases i with
  | selsrc src =>
    cases h
    exact iteInduction (fun _ => effect_raise .badCmd) fun _ =>
      iteInduction (fun _ => effect_raise .badCmd) fun _ =>
      iteInduction (fun _ => effect_self) fun _ => effect_switchSeq src (keptRate s)
  | setrate freq => cases h; exact effect_requestRate freq
  | rateirq freq => cases h; exact effect_requestRate freq
  | refev src kind count =>
    cases h; exact iteInduction (fun hf => .observed src kind count hf) fun _ => effect_self
  | los => cases h; exact iteInduction (fun _ => effect_fallBack .los) fun _ => effect_self
  | status => cases h; exact effect_illegalWord _
  | settings => cases h; exact effect_illegalWord _
  | getstatus => cases h; exact .answered _ (by decide)
  | synget freq => cases h; exact .answered _ (by simp [Instr.mnemonic, readRows])
  | clrflags mask => cases h; exact .flagged _ s.noteMissed s.noteHardFail
  | audmsg => cases h; exact effect_self
  | pininit => cases h; exact effect_deliver .init
  | pintgl => cases h; exact effect_deliver .immediate
  | pintglt off => cases h; exact effect_deliver (.timed off)
  | pinfault => cases h; exact .driven .undef none none true s.noteMissed true fun _ => rfl
  | timeout =>
    rw [exec_timeout] at h
    obtain ⟨-, rfl⟩ := whenEnabled_next h
    exact .switched _ _ _ s.noteMissed s.noteHardFail
  | note => obtain ⟨-, rfl⟩ := whenEnabled_next h; exact effect_takeNotes
  | paccept => obtain ⟨-, rfl⟩ := whenEnabled_next h; exact effect_takeRequest
  | pflip =>
    obtain ⟨-, rfl⟩ := whenEnabled_next h
    exact .driven _ s.mailbox none s.failed s.noteMissed s.noteHardFail id
  | tick => obtain ⟨-, rfl⟩ := whenEnabled_next h; exact .ticked _ _
  | reset => exact .restored h

/-! ## What the effects leave -/

@[simp] theorem afterSwitch_cfg (src : ClockSource) (r : Option (BitVec 32)) (s : State) :
    (afterSwitch src r s).cfg = s.cfg := by cases r <;> rfl

@[simp] theorem afterSwitch_now (src : ClockSource) (r : Option (BitVec 32)) (s : State) :
    (afterSwitch src r s).now = s.now := by cases r <;> rfl

@[simp] theorem afterSwitch_failed (src : ClockSource) (r : Option (BitVec 32)) (s : State) :
    (afterSwitch src r s).failed = s.failed := by cases r <;> rfl

@[simp] theorem afterSwitch_outbox (src : ClockSource) (r : Option (BitVec 32)) (s : State) :
    (afterSwitch src r s).outbox = s.outbox := by cases r <;> rfl

/-- A switch sequence can give a rate and takes none away (R224). -/
@[simp] theorem afterSwitch_rateValid (src : ClockSource) (r : Option (BitVec 32)) (s : State) :
    (afterSwitch src r s).rateValid = (r.isSome || s.rateValid) := by cases r <;> rfl

@[simp] theorem observe_outbox (count : Nat) (s : State) : (observe count s).outbox = s.outbox := by
  obtain ⟨-, h⟩ | ⟨-, -, h⟩ | ⟨-, -, h⟩ := observe_cases count s <;> rw [h]; rfl

@[simp] theorem observe_rateValid (count : Nat) (s : State) :
    (observe count s).rateValid = s.rateValid := by
  obtain ⟨-, h⟩ | ⟨-, -, h⟩ | ⟨-, -, h⟩ := observe_cases count s <;> rw [h]; rfl

section Frames

variable {i : Instr} {s t : State}

/-- No instruction changes a parameter (R5). -/
theorem Effect.cfg_eq (h : Effect s i t) : t.cfg = s.cfg := by
  cases h with
  | observed => exact congrArg (·.cfg) (pinView_observe ..)
  | switched => exact afterSwitch_cfg ..
  | restored h => cases h; rfl
  | driven | ticked | flagged | answered => rfl

/-- Only TICK counts (R42). -/
theorem Effect.now_eq (h : Effect s i t) (htick : i ≠ .tick) : t.now = s.now := by
  cases h with
  | observed => exact congrArg (·.now) (pinView_observe ..)
  | switched => exact afterSwitch_now ..
  | restored h => cases h; rfl
  | ticked => exact absurd rfl htick
  | driven | flagged | answered => rfl

/-- Only the two reads answer (R320). -/
theorem Effect.outbox_eq (h : Effect s i t) (hread : i.mnemonic ∉ readRows) : t.outbox = s.outbox := by
  cases h with
  | observed => exact observe_outbox ..
  | switched => exact afterSwitch_outbox ..
  | answered _ hmem => exact absurd hmem hread
  | restored h => cases h; rfl
  | driven | ticked | flagged => rfl

/-- Only RESET ends a failure of the driver (R300). -/
theorem Effect.keepsFailed (h : Effect s i t) (hreset : i ≠ .reset) (hs : s.failed = true) :
    t.failed = true := by
  cases h with
  | driven _ _ _ _ _ _ hfailed => exact hfailed hs
  | observed => exact (congrArg (·.failed) (pinView_observe ..)).trans hs
  | switched => exact (afterSwitch_failed ..).trans hs
  | restored => exact absurd rfl hreset
  | ticked | flagged | answered => exact hs

/-- Only RESET takes the rate away (R300). -/
theorem Effect.keepsRate (h : Effect s i t) (hreset : i ≠ .reset) (hs : s.rateValid = true) :
    t.rateValid = true := by
  cases h with
  | observed => exact (observe_rateValid ..).trans hs
  | switched => exact (afterSwitch_rateValid ..).trans (hs.symm ▸ Bool.or_true _)
  | restored => exact absurd rfl hreset
  | driven | ticked | flagged | answered => exact hs

end Frames

end Sys2Proof.Machine
end

section
/-! The dwell before a lock (43_arbiter.md R248, 70_reset_and_hazards.md R313): how many reference events the
state of the loop has cost at the least; and the obligation that no run is LOCKED on fewer than
MIN_DWELL + 2 of them. -/

namespace Sys2Proof.Machine

open Sys2Proof.Safety

/-! ## The events that a state of the loop has cost -/

/-- `n` reference events pay for the state of the loop since it was last reset: one has primed it, the next
has made it acquire, each further one has added at most 1 to the dwell, and it locks only with the one that
completes MIN_DWELL. -/
structure DwellPaid (n : Nat) (s : State) : Prop where
  unprimed : s.prevValid = false → s.lock = .unlocked
  primed : s.prevValid = true → 1 ≤ n
  acquiring : s.lock = .acquiring → s.dwell + 2 ≤ n
  locked : s.lock = .locked → s.cfg.minDwell + 2 ≤ n

theorem DwellPaid.mono {m n : Nat} {s : State} (hs : DwellPaid m s) (h : m ≤ n) : DwellPaid n s where
  unprimed := hs.unprimed
  primed hp := (hs.primed hp).trans h
  acquiring hl := (hs.acquiring hl).trans h
  locked hl := (hs.locked hl).trans h

/-- A loop that has been reset has cost nothing. -/
theorem dwellPaid_of_unprimed (n : Nat) {s : State} (hp : s.prevValid = false)
    (hl : s.lock = .unlocked) : DwellPaid n s where
  unprimed _ := hl
  primed h := nomatch hp.symm.trans h
  acquiring h := nomatch hl.symm.trans h
  locked h := nomatch hl.symm.trans h

theorem dwellPaid_afterSwitch (n : Nat) (src : ClockSource) (r : Option (BitVec 32)) (s : State) :
    DwellPaid n (afterSwitch src r s) := by
  cases r <;> exact dwellPaid_of_unprimed n rfl rfl

/-- Each row of R147 costs one event. -/
theorem dwellPaid_lockStage {n : Nat} {s : State} (hs : DwellPaid n s) (hp : s.prevValid = true)
    (a : Nat) : DwellPaid (n + 1) (lockStage a s) := by
  have hmono := hs.mono n.le_succ
  have hn : 0 + 2 ≤ n + 1 := Nat.succ_le_succ (hs.primed hp)
  have hunprimed : ¬ s.prevValid = false := Bool.not_eq_false _ ▸ hp
  cases hl : s.lock with
  | unlocked =>
    rw [lockStage_of_unlocked hl]
    exact ⟨(absurd · hunprimed), hmono.primed, fun _ => hn, nofun⟩
  | acquiring =>
    have hdwell : s.dwell + 1 + 2 ≤ n + 1 := Nat.succ_le_succ (hs.acquiring hl)
    obtain ha | ha := lt_or_ge a s.cfg.lockThreshold
    · obtain hd | hd := lt_or_ge (s.dwell + 1) s.cfg.minDwell
      · rw [lockStage_of_dwelling hl ha hd]
        exact { hmono with acquiring := fun _ => hdwell }
      · rw [lockStage_of_dwelt hl ha hd]
        exact ⟨(absurd · hunprimed), hmono.primed, nofun,
          fun _ => (Nat.add_le_add_right hd 2).trans hdwell⟩
    · rw [lockStage_of_restart hl ha]
      exact { hmono with acquiring := fun _ => hn }
  | locked =>
    obtain ha | ha := lt_or_ge s.cfg.unlockThreshold a
    · rw [lockStage_of_lost hl ha]
      exact ⟨(absurd · hunprimed), hmono.primed, fun _ => hn, nofun⟩
    · rw [lockStage_of_kept hl ha]
      exact hmono

/-- An event costs one event, whether it primes, stalls or is sampled (R140). -/
theorem dwellPaid_observe {n : Nat} {s : State} (hs : DwellPaid n s) (count : Nat) :
    DwellPaid (n + 1) (observe count s) := by
  have hmono := hs.mono n.le_succ
  obtain ⟨-, h⟩ | ⟨-, -, h⟩ | ⟨hp, -, h⟩ := observe_cases count s <;> rw [h]
  · exact { hmono with unprimed := nofun, primed := fun _ => n.succ_pos }
  · exact { hmono with }
  · refine dwellPaid_lockStage (s := applyUpdate _ _) ?_ ?_ _
    · exact { hs with }
    · exact hp

/-! ## Runs -/

theorem eventCount_cons (i : Instr) (is : List Instr) :
    eventCount (i :: is) = eventCount [i] + eventCount is := by
  rw [eventCount, ← List.singleton_append, List.filter_append, List.length_append]; rfl

/-- An instruction costs the events it takes: every effect but that of an event leaves the loop or resets
it. -/
theorem exec_dwellPaid {n : Nat} {i : Instr} {s t : State} (hs : DwellPaid n s)
    (h : exec i s = .next t) : DwellPaid (n + eventCount [i]) t := by
  have hmono : DwellPaid (n + eventCount [i]) s := hs.mono (Nat.le_add_right ..)
  cases exec_effect h with
  | observed => exact dwellPaid_observe hs _
  | switched => exact dwellPaid_afterSwitch ..
  | restored h => cases h; exact dwellPaid_of_unprimed _ rfl rfl
  | driven | ticked | flagged | answered => exact { hmono with }

theorem runInstrs_cons_next {i : Instr} {is : List Instr} {s t : State}
    (h : runInstrs (i :: is) s = .next t) :
    ∃ u, exec i s = .next u ∧ runInstrs is u = .next t := by
  cases hexec : exec i s with
  | next u => rw [runInstrs, hexec] at h; exact ⟨u, rfl, h⟩
  | fault r => rw [runInstrs, hexec] at h; cases h
  | refused r => rw [runInstrs, hexec] at h; cases h

theorem runInstrs_dwellPaid (is : List Instr) {n : Nat} {s t : State} (hs : DwellPaid n s)
    (h : runInstrs is s = .next t) : DwellPaid (n + eventCount is) t := by
  induction is generalizing n s with
  | nil => cases h; exact hs
  | cons i is ih =>
    obtain ⟨u, hexec, hrun⟩ := runInstrs_cons_next h
    rw [eventCount_cons, ← Nat.add_assoc]
    exact ih (exec_dwellPaid hs hexec) hrun

theorem runInstrs_cfg (is : List Instr) {s t : State} (h : runInstrs is s = .next t) :
    t.cfg = s.cfg :=
  runInstrs_keeps (Keeps := fun u => u.cfg = s.cfg) (Permitted := fun _ => True)
    (fun _ _ _ _ hs h => (exec_effect h).cfg_eq.trans hs) is s t (fun _ _ => trivial) rfl h

/-- Settles O60: the first state has cost nothing, by the invariant I-j, so the last has cost no more than
the events of the run, which do not pay for a lock. -/
theorem noLockBeforeTheDwell : Obligations.NoLockBeforeTheDwell := by
  intro is s t hi hp h hfew hlocked
  have hstart : DwellPaid 0 s := dwellPaid_of_unprimed 0 hp (hi.unprimed hp).1
  have hpaid := (runInstrs_dwellPaid is hstart h).locked hlocked
  rw [runInstrs_cfg is h] at hpaid
  omega

end Sys2Proof.Machine
end

section
/-! The reset event (70_reset_and_hazards.md R300 to R302, R320): what RESET writes and what only RESET can
undo, what no instruction touches, who is answered, and what is enabled just after RESET. -/

namespace Sys2Proof.Machine

open Sys2Proof.Safety

/-- Settles O11: RESET rebuilds the state from the reset column; what no other instruction undoes is read
off the effects, and for HARD_FAIL off the sticky flags. -/
theorem resetWritesTheResetColumn : Obligations.ResetWritesTheResetColumn :=
  ⟨fun _ => ⟨_, rfl, rfl, rfl, rfl, rfl, rfl, rfl, rfl, rfl, rfl, rfl, rfl, rfl, rfl, rfl, rfl, rfl, rfl,
      rfl, rfl⟩,
    fun _ _ _ h hreset => ⟨(exec_effect h).keepsFailed hreset,
      fun hflag => exec_keepsHardFail hreset hflag h, (exec_effect h).keepsRate hreset⟩⟩

/-- Settles O12: the turn and the parameters by the lemmas for every instruction; the ghost count and the
answers at the one instruction that is singled out. -/
theorem instructionsKeepTheModelsOwnFields : Obligations.InstructionsKeepTheModelsOwnFields := by
  intro i s t h
  obtain ⟨howed, hpatience, hschedule⟩ := exec_sameTurn h
  refine ⟨(exec_effect h).cfg_eq, hschedule, howed, hpatience, ?_, ?_, (exec_effect h).now_eq⟩
  · rintro rfl; exact (exec_effect h).outbox_eq (by decide)
  · rintro rfl; obtain ⟨-, rfl⟩ := whenEnabled_next h; rfl

/-- Settles O52: each read sends one answer, and no other effect sends any. -/
theorem answersGoOnlyToTheTwoReads : Obligations.AnswersGoOnlyToTheTwoReads := by
  intro i s t h
  refine ⟨fun hread => ?_, (exec_effect h).outbox_eq⟩
  cases i with
  | getstatus => cases h; exact ⟨_, rfl⟩
  | synget => cases h; exact ⟨_, rfl⟩
  | _ => simp [Instr.mnemonic] at hread

/-- Settles O14: the reset column disables every internal step but TICK and discards every event; the
watchdog's first tick is below its bound, as REF_TIMEOUT_TICKS is positive. -/
theorem justAfterReset : Obligations.JustAfterReset := by
  intro s t hvalid h
  have hticks : 1 ≤ t.cfg.refTimeoutTicks := (exec_effect h).cfg_eq ▸ hvalid.refTimeoutTicks_pos
  obtain ⟨u, hu, hsrc, hfreq, hrate, -, -, -, -, -, hlock, -, hwdog, hflags, -, -, hmail, hfly, -,
    hmissed, hhard⟩ := resetWritesTheResetColumn.1 s
  obtain rfl : t = u := Host.Outcome.next.inj (h.symm.trans hu)
  refine ⟨?_, ?_, exec_note_of_quiet hmissed hhard, ?_, exec_pflip_of_idle hfly, ?_,
    fun _ kind count => exec_refev_of_discarded kind count (.inr hrate)⟩
  · rw [getstatusAnswersTheStatusWord t, hsrc, hfreq, hrate, hlock, hflags]; rfl
  · exact (timeoutFollowsItsRule t).2 (.inr (.inl hrate))
  · exact exec_paccept_of_disabled fun he => (pacceptEnabled_iff.mp he).2.2 hmail
  · obtain ⟨v, hv, htick⟩ := (tickFollowsItsRule t 0).1 hfly (.inr hmail)
    obtain ⟨-, -, -, -, -, hnow, -⟩ := instructionsKeepTheModelsOwnFields .tick t v hv
    rw [hv, htick, hnow rfl, hwdog, Nat.min_eq_left hticks]

end Sys2Proof.Machine
end

section
/-! Decoding and encoding (30_encoding.md sections 2 to 6): the decoder reads the operands back from the word
of an instruction, the word of what it reads is the word it was given, and the opcode byte decides the row; and
the obligations on them. -/

namespace Sys2Proof

/-! ## The spec's decoding table -/

/-- Settles O1: the decoder runs on the fifteen words of the table. -/
theorem specVectorsDecode : Obligations.SpecVectorsDecode :=
  ⟨rfl, rfl, rfl, rfl, rfl, rfl, rfl, rfl, rfl, rfl, rfl, rfl, rfl, rfl, rfl⟩

/-! ## The word of an instruction -/

/-- A word with zero reserved bits decodes to what its operands say (R102). -/
theorem decode_mkWord_of_reservedZero {timerMod : Nat} {op : Opcode} {aux : BitVec 24} {opr : BitVec 32}
    (h : reservedZero op.format aux opr = true) :
    decode timerMod (mkWord op.code aux opr) = assemble timerMod op aux opr := by
  rw [decode_mkWord, if_pos h]

/-- SELSRC and LOS: the operands are read from the `AUX` of their source. -/
theorem decode_sourceWord (timerMod : Nat) {op : Opcode} (hop : op.format = .s) (src : ClockSource) :
    decode timerMod (mkWord op.code (auxOfSource src) 0#32) =
      assemble timerMod op (auxOfSource src) 0#32 := by
  obtain ⟨-, hres⟩ := fields_auxOfSource src
  exact decode_mkWord_of_reservedZero (by simp [hop, reservedZero, hres])

theorem decode_refev {timerMod : Nat} (src : ClockSource) (kind : EventKind) {count : BitVec 32}
    (h : count.toNat < timerMod) :
    decode timerMod (mkWord Opcode.refev.code (auxOfEvent src kind) count) =
      .ok (.refev src kind count) := by
  obtain ⟨hsrc, hkind, hres⟩ := fields_auxOfEvent src kind
  rw [decode_mkWord_of_reservedZero (by simp [Opcode.format, reservedZero, hres]), assemble, if_pos h,
    hsrc, hkind]

theorem decode_clrflags (timerMod : Nat) (mask : BitVec 8) :
    decode timerMod (mkWord Opcode.clrflags.code 0#24 (oprOfMask mask)) = .ok (.clrflags mask) := by
  obtain ⟨hmask, hres⟩ := fields_oprOfMask mask
  rw [decode_mkWord_of_reservedZero (by simp [Opcode.format, reservedZero, hres]), assemble, hmask]

theorem decode_statusWord (timerMod : Nat) (src : ClockSource) (lock : BitVec 2) (rateValid : Bool)
    (flags : BitVec 8) (rate : BitVec 32) :
    decode timerMod (statusWord src lock rateValid flags rate) =
      .ok (.status src lock rateValid flags rate) := by
  obtain ⟨hsrc, hlock, hrate, hlow, hflags, hhigh⟩ := fields_auxOfStatus src lock rateValid flags
  rw [statusWord, decode_mkWord_of_reservedZero (by simp [Opcode.format, reservedZero, hlow, hhigh]),
    assemble, hsrc, hlock, hrate, hflags]

theorem decode_settingsWord (timerMod : Nat) (fracIndex : BitVec 16) (firstUpdate unsup : Bool)
    (adder : BitVec 32) :
    decode timerMod (settingsWord fracIndex firstUpdate unsup adder) =
      .ok (.settings fracIndex firstUpdate unsup adder) := by
  obtain ⟨hindex, hfirst, hunsup, hres⟩ := fields_auxOfSettings fracIndex firstUpdate unsup
  rw [settingsWord, decode_mkWord_of_reservedZero (by simp [Opcode.format, reservedZero, hres]),
    assemble, hindex, hfirst, hunsup]

/-- Settles O2: of what `wellFormed` asks only the range of a REFEV's count is needed, as the decoder accepts
every STATUS and SETTINGS word. -/
theorem decodeOfEncodeIsIdentity : Obligations.DecodeOfEncodeIsIdentity := by
  intro timerMod i w hwf henc
  cases i with
  | selsrc src => cases henc; rw [decode_sourceWord timerMod rfl, assemble, (fields_auxOfSource src).1]
  | los src => cases henc; rw [decode_sourceWord timerMod rfl, assemble, (fields_auxOfSource src).1]
  | refev src kind count => cases henc; exact decode_refev src kind (of_decide_eq_true hwf)
  | clrflags mask => cases henc; exact decode_clrflags timerMod mask
  | status => cases henc; exact decode_statusWord ..
  | settings => cases henc; exact decode_settingsWord ..
  | setrate | synget | rateirq | audmsg | pintglt | getstatus | pininit | pintgl | pinfault =>
    cases henc; exact decode_mkWord_of_reservedZero rfl
  | timeout | note | paccept | pflip | tick | reset => cases henc

/-! ## The instruction of a word -/

/-- Encoding the operands of fields with zero reserved bits gives the fields back. -/
theorem encode_of_assemble {timerMod : Nat} {op : Opcode} {aux : BitVec 24} {opr : BitVec 32} {i : Instr}
    (hres : reservedZero op.format aux opr = true) (h : assemble timerMod op aux opr = .ok i) :
    encode i = some (mkWord op.code aux opr) := by
  cases op with
  | selsrc | los =>
    cases h
    simp only [Opcode.format, reservedZero, Bool.and_eq_true, beq_iff_eq] at hres
    rw [encode, auxOfSource_fields aux hres.1, hres.2]
  | setrate | synget | rateirq | audmsg | pintglt =>
    cases h
    simp only [Opcode.format, reservedZero, beq_iff_eq] at hres
    rw [encode, hres]
  | getstatus | pininit | pintgl | pinfault =>
    cases h
    simp only [Opcode.format, reservedZero, Bool.and_eq_true, beq_iff_eq] at hres
    rw [encode, hres.1, hres.2]
  | clrflags =>
    cases h
    simp only [Opcode.format, reservedZero, Bool.and_eq_true, beq_iff_eq] at hres
    rw [encode, hres.1, oprOfMask_fields opr hres.2]
  | refev =>
    rw [assemble] at h
    split at h <;> cases h
    simp only [Opcode.format, reservedZero, beq_iff_eq] at hres
    rw [encode, auxOfEvent_fields aux hres]
  | status =>
    cases h
    simp only [Opcode.format, reservedZero, Bool.and_eq_true, beq_iff_eq] at hres
    rw [encode, statusWord, auxOfStatus_fields aux hres.1 hres.2]
  | settings =>
    cases h
    simp only [Opcode.format, reservedZero, beq_iff_eq] at hres
    rw [encode, settingsWord, auxOfSettings_fields aux hres]

/-- Settles O3: an accepted word is the concatenation of its fields, which its instruction gives back. -/
theorem encodeOfDecodeIsIdentity : Obligations.EncodeOfDecodeIsIdentity := by
  intro timerMod w i h
  obtain ⟨op, hcode, hres, hasm⟩ := decode_ok_cases h
  rw [encode_of_assemble hres hasm, hcode, mkWord_fields]

/-! ## The rows of the opcode map -/

theorem Opcode.code_injective : Function.Injective Opcode.code := fun op op' h =>
  Option.some.inj ((opcodeOf_code op).symm.trans (h ▸ opcodeOf_code op'))

/-- A row's operation decides what is printed for it. -/
theorem eq_of_mem_opcodeMap {r q : MapRow} (hr : r ∈ opcodeMap) (hq : q ∈ opcodeMap)
    (h : r.opcode = q.opcode) : r = q := by
  obtain ⟨hrp, hrm⟩ := pattern_mask_of_mem_opcodeMap r hr
  obtain ⟨hqp, hqm⟩ := pattern_mask_of_mem_opcodeMap q hq
  cases r
  cases q
  simp_all

/-- Settles O5: both rows have the opcode byte of the word. -/
theorem atMostOneRowMatches : Obligations.AtMostOneRowMatches := by
  intro w r q hr hq hrw hqw
  obtain ⟨hrcode, -⟩ := (MapRow.matches_iff hr w).mp hrw
  obtain ⟨hqcode, -⟩ := (MapRow.matches_iff hq w).mp hqw
  exact eq_of_mem_opcodeMap hr hq (Opcode.code_injective (hrcode.trans hqcode.symm))

end Sys2Proof
end

section
/-! The step (R15, 30_encoding.md R102, 60_exceptions.md R275): it runs what it takes, no word stops it, and it
leaves the parameters; and the obligations that say so. -/

namespace Sys2Proof.Machine

open Sys2Proof.Safety

/-- A due step is what a step runs. -/
theorem step_of_due {s : State} {k : InternalStep} (hd : dueStep s = some k) :
    step s = exec k.instr { s with owed := (stillOwed s).erase k } := by
  rw [step, fetch_due hd]

/-- With nothing due and a word first, the step runs what it decodes to. -/
theorem step_of_decoded {s : State} {w : Word} {rest : List Event} {i : Instr} (hd : dueStep s = none)
    (hs : s.schedule = .word w :: rest) (hdec : decode s.cfg.timerMod w = .ok i) :
    step s = exec i { passTurn s with schedule := rest } := by
  simp only [step, fetch_word hd hs, fetchWord, passTurn_cfg, hdec]

/-- With nothing due and a rejected word first, the step handles it as illegal. -/
theorem step_of_rejected {s : State} {w : Word} {rest : List Event} {e : DecodeError}
    (hd : dueStep s = none) (hs : s.schedule = .word w :: rest)
    (hdec : decode s.cfg.timerMod w = .error e) :
    step s = .next (illegalWord w { passTurn s with schedule := rest }) := by
  simp only [step, fetch_word hd hs, fetchWord, passTurn_cfg, hdec]

/-- Settles O6: the four clauses are the ways of `fetch`, and the definition of a turn. -/
theorem stepRunsWhatIsTaken : Obligations.StepRunsWhatIsTaken := by
  intro s rest
  refine ⟨fun _ _ => step_of_decoded, fun k hd hs => ?_, fun _ => step_of_due, _, _, _, rfl⟩
  rw [step, fetch_internal hd hs]

/-- An instruction that has a word completes in every state: only the internal steps can be refused
(R100, R275). -/
theorem exec_of_opcode {i : Instr} (h : (opcodeOfInstr i).isSome = true) (s : State) :
    ∃ t, exec i s = .next t := by
  cases i with
  | timeout | note | paccept | pflip | tick | reset => cases h
  | _ => exact ⟨_, rfl⟩

/-- Settles O10: a due step completes, being enabled, and an accepted word does, having an opcode; neither
writes the schedule. -/
theorem everyWordIsHandled : Obligations.EveryWordIsHandled := by
  intro s w rest hs
  cases hd : dueStep s with
  | some k =>
    have hen : stepEnabled { s with owed := (stillOwed s).erase k } k = true := by
      rw [← stepEnabled_of_due hd]
      cases k <;> rfl
    obtain ⟨t, hexec⟩ := exec_of_enabled hen
    obtain ⟨-, -, hsched⟩ := exec_sameTurn hexec
    exact ⟨t, (step_of_due hd).trans hexec, nofun, fun _ => hsched⟩
  | none =>
    suffices ∃ t, step s = .next t ∧ t.schedule = rest by
      obtain ⟨t, hstep, hsched⟩ := this
      exact ⟨t, hstep, fun _ => hsched, fun h => absurd rfl h⟩
    cases hdec : decode s.cfg.timerMod w with
    | ok i =>
      obtain ⟨t, hexec⟩ := exec_of_opcode (opcodeOfInstr_of_decode hdec)
        { passTurn s with schedule := rest }
      obtain ⟨-, -, hsched⟩ := exec_sameTurn hexec
      exact ⟨t, (step_of_decoded hd hs hdec).trans hexec, hsched⟩
    | error e =>
      obtain ⟨-, -, hsched⟩ := sameTurn_illegalWord w { passTurn s with schedule := rest }
      exact ⟨_, step_of_rejected hd hs hdec, hsched⟩

/-- Settles O17: no effect of an instruction writes the parameters, and no illegal word does. -/
theorem stepKeepsTheParameters : Obligations.StepKeepsTheParameters := by
  intro s t h
  obtain ⟨_, _, _, _, u, rfl, ⟨i, hexec, -⟩ | ⟨w, rfl⟩⟩ := step_cases h
  · exact (exec_effect hexec).cfg_eq
  · exact congrArg (·.cfg) (pinView_illegalWord ..)

end Sys2Proof.Machine
end

section
/-! The arithmetic of one observation: the error sample as the centred residue (41_pll_core.md R142, R143) and
the bounds of a move of `fracIndex` (40_synth_model.md R119); and the obligations on them. -/

namespace Sys2Proof.Machine

open Sys2Proof.Safety

/-! ## The error sample -/

/-- The centred residue is congruent to its argument. -/
theorem dvd_sub_sres (m r : Nat) : (m : Int) ∣ (r : Int) - sres m r := by
  unfold sres
  split <;> simp

/-- A wrapping subtraction is congruent to the subtraction. -/
theorem dvd_sub_wsub {m : Nat} (hm : 0 < m) (a b : Nat) :
    (m : Int) ∣ ((a : Int) - (b : Int)) - (wsub m a b : Nat) := by
  rw [wsub_cast hm]
  exact Int.dvd_self_sub_emod

/-- R143: the sample is congruent to advance minus `adder`. -/
theorem dvd_sub_errorSample {m : Nat} (hm : 0 < m) (count prev adder : Nat) :
    (m : Int) ∣ (count : Int) - (prev : Int) - (adder : Int) - errorSample m count prev adder := by
  have hsum := ((dvd_sub_wsub hm count prev).add (dvd_sub_wsub hm (wsub m count prev) adder)).add
    (dvd_sub_sres m (wsub m (wsub m count prev) adder))
  rw [errorSample]
  ring_nf at hsum ⊢
  exact hsum

/-- The centred range holds one number of each residue class. -/
theorem eq_of_centred {m : Nat} {e e' : Int} (hm : 0 < m)
    (he : -((m / 2 : Nat) : Int) ≤ e ∧ e ≤ (((m - 1) / 2 : Nat) : Int))
    (he' : -((m / 2 : Nat) : Int) ≤ e' ∧ e' ≤ (((m - 1) / 2 : Nat) : Int))
    (h : (m : Int) ∣ e - e') : e = e' := by
  have hclose : |e - e'| < m := by rw [abs_lt]; omega
  exact sub_eq_zero.mp (Int.eq_zero_of_abs_lt_dvd h hclose)

/-- Settles O19: the sample has both properties, and they determine it. -/
theorem errorSampleIsTheCentredResidue : Obligations.ErrorSampleIsTheCentredResidue := by
  intro m count prev adder e hm _ _ _
  have hpos : 0 < m := Nat.zero_lt_of_lt hm
  have hrange : -((m / 2 : Nat) : Int) ≤ errorSample m count prev adder ∧
      errorSample m count prev adder ≤ (((m - 1) / 2 : Nat) : Int) := sres_mem_range (wsub_lt hpos _ _)
  have hdvd := dvd_sub_errorSample hpos count prev adder
  constructor
  · rintro rfl
    exact ⟨hrange.1, hrange.2, hdvd⟩
  · rintro ⟨hlow, hhigh, he⟩
    refine eq_of_centred hpos hrange ⟨hlow, hhigh⟩ ?_
    have hdiff := he.sub hdvd
    rwa [sub_sub_sub_cancel_left] at hdiff

/-! ## The move of the index -/

/-- An index in the table moves by no more than the step: the saturation can only shorten it. -/
theorem natAbs_moveIndex_le {p : Params} {index : Nat} (h : index < p.tableSize) (move : Int) :
    ((moveIndex p index move : Int) - (index : Int)).natAbs ≤ move.natAbs := by
  rw [moveIndex_cast (Nat.one_le_of_lt h)]
  omega

theorem natAbs_correction_le (p : Params) (integ e : Int) : (correction p integ e).natAbs ≤ p.maxStep := by
  rw [correction, clamp_symmetric]
  omega

/-- The table step is no larger than the correction, and after the seed no larger than 1 (R118). -/
theorem natAbs_updateStep_le (firstUpdate : Bool) (c : Int) :
    (updateStep firstUpdate c).natAbs ≤ c.natAbs ∧
      (firstUpdate = false → (updateStep firstUpdate c).natAbs ≤ 1) := by
  cases firstUpdate with
  | true => exact ⟨Nat.le_refl _, nofun⟩
  | false => rw [updateStep_false]; omega

/-- The move of one event (R119). -/
theorem observe_fracIndex_bounds {s : State} (h : s.fracIndex < s.cfg.tableSize) (count : Nat) :
    (((observe count s).fracIndex : Int) - (s.fracIndex : Int)).natAbs ≤ s.cfg.maxStep ∧
    (s.firstUpdate = false → (((observe count s).fracIndex : Int) - (s.fracIndex : Int)).natAbs ≤ 1) := by
  have hstays : ((s.fracIndex : Int) - (s.fracIndex : Int)).natAbs = 0 := by rw [sub_self]; rfl
  obtain ⟨-, ho⟩ | ⟨-, -, ho⟩ | ⟨-, -, ho⟩ := observe_cases count s <;> rw [ho]
  · simp only [hstays, Nat.zero_le, implies_true, and_self]
  · simp only [hstays, Nat.zero_le, implies_true, and_self]
  · rw [takeSample_eq]
    dsimp only
    generalize hc : correction s.cfg _ _ = c
    have hcorr : c.natAbs ≤ s.cfg.maxStep := hc ▸ natAbs_correction_le ..
    obtain ⟨hle, hone⟩ := natAbs_updateStep_le s.firstUpdate c
    have hmove := natAbs_moveIndex_le h (updateStep s.firstUpdate c)
    exact ⟨hmove.trans (hle.trans hcorr), fun hf => hmove.trans (hone hf)⟩

/-- Settles O45: an event that is not forwarded moves nothing. -/
theorem refevMovesTheIndexWithinBounds : Obligations.RefevMovesTheIndexWithinBounds := by
  intro src kind count s t hi h
  cases h
  split
  · exact observe_fracIndex_bounds hi.fracIndex_lt _
  · simp

end Sys2Proof.Machine
end

section
/-! What an instruction does and why, said once: the effects of an instruction that completes, each with the
instruction it belongs to and the causes of the flags and switches in it (41_pll_core.md R148, 43_arbiter.md
R246 and R248, 60_exceptions.md R261, 10_state.md R46); and the obligations on who changes what. -/

namespace Sys2Proof.Machine

open Sys2Proof.Safety

/-! ## Causes -/

/-- The row of a condition in R261's table. -/
def FlagCause (s : State) (i : Instr) : Condition → Prop
  | .unsupportedFreq =>
      ∃ freq : BitVec 32, (i = .setrate freq ∨ i = .rateirq freq) ∧ ¬ supported s.cfg freq.toNat
  | .refTimeout => i = .timeout ∧ timeoutEnabled s = true
  | .missedDeadline => i = .note ∧ s.noteMissed = true
  | .timerStall =>
      ∃ (kind : EventKind) (count : BitVec 32), i = .refev s.activeSource kind count ∧
        s.rateValid = true ∧ s.prevValid = true ∧ count.toNat = s.prevCount
  | .hardFail => i = .note ∧ s.noteHardFail = true
  | .los => i = .los s.activeSource ∧ s.activeSource ≠ .internal
  | .badCmd =>
      i.isAnswer = true ∨
      ∃ src : ClockSource, i = .selsrc src ∧
        (sourcePresent s.cfg src = false ∨ (flagSet s.flags .hardFail = true ∧ src ≠ .internal))
  | .fallback =>
      s.activeSource ≠ .internal ∧
      (i = .timeout ∨ i = .los s.activeSource ∨ (i = .note ∧ s.noteHardFail = true))

/-- Why an instruction runs `switchSeq(src, r)` (R246, R232, R234). -/
inductive SwitchCause (s : State) : Instr → ClockSource → Option (BitVec 32) → Prop where
  | selected {src : ClockSource} (hwired : sourcePresent s.cfg src = true)
      (hok : flagSet s.flags .hardFail = false ∨ src = .internal) :
      SwitchCause s (.selsrc src) src (keptRate s)
  | rateSet (freq : BitVec 32) : SwitchCause s (.setrate freq) s.activeSource (some freq)
  | rateReported (freq : BitVec 32) : SwitchCause s (.rateirq freq) s.activeSource (some freq)
  | lost : SwitchCause s (.los s.activeSource) .internal (keptRate s)
  | timedOut (he : timeoutEnabled s = true) : SwitchCause s .timeout .internal (some s.currentRate)
  | failed (hhard : s.noteHardFail = true) : SwitchCause s .note .internal (keptRate s)

/-- The conditions an instruction raises have their causes, and NOTE alone takes notifications (R244). -/
inductive Raised (s : State) (i : Instr) : State → Prop where
  | start : Raised s i s
  | raise {u : State} (h : Raised s i u) {c : Condition} (hc : FlagCause s i c) : Raised s i (raise c u)
  | noted {u : State} (h : Raised s i u) (hi : i = .note) (missed hard : Bool) :
      Raised s i { u with noteMissed := missed, noteHardFail := hard }

/-- What an instruction `i` that completes in `s` has made of it, and why. -/
inductive Transition (s : State) : Instr → State → Prop where
  /-- Conditions are raised and notifications taken, or nothing changes (R96, R232, R244, R152). -/
  | flagged {i : Instr} {t : State} (h : Raised s i t) : Transition s i t
  /-- Flags are cleared (R240). -/
  | cleared (mask : BitVec 8) :
      Transition s (.clrflags mask) { s with flags := clearFlags s.flags mask }
  /-- A read is answered (R238, R120). -/
  | answered {i : Instr} (w : Word) (hread : i.mnemonic ∈ readRows) : Transition s i (respond w s)
  /-- A reference event is forwarded (R150). -/
  | observed (src : ClockSource) (kind : EventKind) (count : BitVec 32) (hf : forwarded src s = true) :
      Transition s (.refev src kind count) (observe count.toNat s)
  /-- Conditions are raised and notifications taken, and a switch sequence runs (R224, R226). -/
  | switched {i : Instr} {src : ClockSource} {r : Option (BitVec 32)} {u : State}
      (cause : SwitchCause s i src r) (h : Raised s i u) : Transition s i (afterSwitch src r u)
  /-- A serving driver is given a request (R184). -/
  | delivered {i : Instr} (r : PinRequest) (hrow : i.mnemonic ∈ requestRows)
      (hserving : s.failed = false) : Transition s i { s with mailbox := some r }
  /-- A serving driver accepts the request that waits (R188, R190). -/
  | accepted (pin : PinLevel) (inflight : Option Int) (missed : Bool) (hserving : s.failed = false) :
      Transition s .paccept
        { s with pin := pin, mailbox := none, inflight := inflight, noteMissed := missed }
  /-- The committed flip is performed (R192). -/
  | flipped : Transition s .pflip { s with pin := flipLevel s.pin, inflight := none }
  /-- The driver fails (R198). -/
  | faulted : Transition s .pinfault (pinFaulted s)
  /-- Time passes (R196). -/
  | ticked (wdog : Nat) :
      Transition s .tick
        { s with wdog := wdog, inflight := s.inflight.map (fun rem => rem - 1), now := s.now + 1 }
  /-- The whole state is restored (R300). -/
  | restored {t : State} (h : execReset s = .next t) : Transition s .reset t

/-! ## The transition of each operation -/

section Operations

variable {s : State} {i : Instr}

theorem transition_self : Transition s i s := .flagged .start

theorem transition_raise {c : Condition} (hc : FlagCause s i c) : Transition s i (raise c s) :=
  .flagged (.raise .start hc)

theorem transition_switchSeq {src : ClockSource} {r : Option (BitVec 32)} {u : State}
    (cause : SwitchCause s i src r) (h : Raised s i u) : Transition s i (switchSeq src r u) := by
  rw [switchSeq_eq_afterSwitch]; exact .switched cause h

theorem transition_requestRate {freq : BitVec 32} (hi : i = .setrate freq ∨ i = .rateirq freq) :
    Transition s i (requestRate freq s) := by
  obtain ⟨-, -, h⟩ | ⟨-, hsup, h⟩ | ⟨-, -, h⟩ := requestRate_cases freq s <;> rw [h]
  · exact transition_self
  · exact transition_raise (c := .unsupportedFreq) ⟨freq, hi, hsup⟩
  · obtain rfl | rfl := hi
    · exact .switched (.rateSet freq) .start
    · exact .switched (.rateReported freq) .start

theorem transition_deliver {r : PinRequest} (hrow : i.mnemonic ∈ requestRows) :
    Transition s i (deliver r s) := by
  obtain ⟨-, h⟩ | ⟨hserving, h⟩ := deliver_cases r s <;> rw [h]
  · exact transition_self
  · exact .delivered r hrow hserving

theorem transition_selsrc (src : ClockSource) {t : State} (h : exec (.selsrc src) s = .next t) :
    Transition s (.selsrc src) t := by
  cases h
  refine iteInduction (fun hunwired => ?_) fun hwired => iteInduction (fun hfail => ?_) fun hok =>
    iteInduction (fun _ => transition_self) fun _ => ?_
  · exact transition_raise (c := .badCmd) (.inr ⟨src, rfl, .inl hunwired⟩)
  · exact transition_raise (c := .badCmd) (.inr ⟨src, rfl, .inr hfail⟩)
  · rw [not_and_or, Bool.not_eq_true, not_not] at hok
    exact transition_switchSeq (.selected (Bool.eq_true_of_not_eq_false hwired) hok) .start

theorem transition_timeout {t : State} (h : exec .timeout s = .next t) : Transition s .timeout t := by
  obtain ⟨he, rfl⟩ := whenEnabled_next h
  obtain ⟨hext, -⟩ := timeoutEnabled_iff.mp he
  have htimeout : FlagCause s .timeout .refTimeout := ⟨rfl, he⟩
  have hfallback : FlagCause s .timeout .fallback := ⟨hext, .inl rfl⟩
  exact transition_switchSeq (.timedOut he) (.raise (.raise .start htimeout) hfallback)

theorem transition_los (src : ClockSource) {t : State} (h : exec (.los src) s = .next t) :
    Transition s (.los src) t := by
  cases h
  refine iteInduction (fun ⟨hactive, hext⟩ => ?_) fun _ => transition_self
  subst hactive
  have hlos : FlagCause s (.los s.activeSource) .los := ⟨rfl, hext⟩
  have hfallback : FlagCause s (.los s.activeSource) .fallback := ⟨hext, .inr (.inl rfl)⟩
  exact transition_switchSeq .lost (.raise (.raise .start hlos) hfallback)

theorem raised_takeMissed : Raised s .note (takeMissed s) :=
  iteInduction
    (fun hm => .noted (.raise (c := .missedDeadline) .start ⟨rfl, hm⟩) rfl false s.noteHardFail)
    fun _ => .start

/-- After the missed deadline NOTE raises HARD_FAIL for a pending failure, and falls back from a source that
is not Internal (R244). -/
theorem transition_takeHardFail {u : State} (h : Raised s .note u) (hhard : u.noteHardFail = s.noteHardFail)
    (hsrc : u.activeSource = s.activeSource) (hrate : keptRate u = keptRate s) :
    Transition s .note (takeHardFail u) := by
  refine iteInduction (fun hpending => ?_) fun _ => .flagged h
  have hquiet : Raised s .note { u with noteHardFail := false } := h.noted rfl u.noteMissed false
  have hfail : FlagCause s .note .hardFail := ⟨rfl, hhard ▸ hpending⟩
  refine iteInduction (fun _ => .flagged (hquiet.raise hfail)) fun hext => ?_
  have hfallback : FlagCause s .note .fallback := ⟨hsrc ▸ hext, .inr (.inr hfail)⟩
  have hswitch : SwitchCause s .note .internal (keptRate u) := hrate ▸ .failed (hhard ▸ hpending)
  exact transition_switchSeq hswitch ((hquiet.raise hfail).raise hfallback)

theorem transition_note {t : State} (h : exec .note s = .next t) : Transition s .note t := by
  obtain ⟨-, rfl⟩ := whenEnabled_next h
  exact transition_takeHardFail raised_takeMissed (takeMissed_noteHardFail s) (takeMissed_activeSource s)
    (rateInForce_takeMissed s)

theorem transition_paccept {t : State} (h : exec .paccept s = .next t) : Transition s .paccept t := by
  obtain ⟨he, rfl⟩ := whenEnabled_next h
  obtain ⟨hserving, -, hwaiting⟩ := pacceptEnabled_iff.mp he
  obtain ⟨r, hr⟩ := Option.ne_none_iff_exists'.mp hwaiting
  rw [takeRequest_of_waiting hr]
  cases r with
  | init => exact .accepted _ s.inflight s.noteMissed hserving
  | immediate => exact .accepted s.pin (some 0) s.noteMissed hserving
  | timed off =>
    obtain ⟨-, h⟩ | ⟨-, h⟩ := acceptTimed_cases (offsetOf off) { s with mailbox := none } <;>
      rw [acceptRequest, h]
    · exact .accepted s.pin (some 0) true hserving
    · exact .accepted s.pin (some (offsetOf off)) s.noteMissed hserving

end Operations

/-- Every instruction that completes makes one of the transitions. -/
theorem exec_transition {i : Instr} {s t : State} (h : exec i s = .next t) : Transition s i t := by
  cases i with
  | selsrc src => exact transition_selsrc src h
  | setrate freq => cases h; exact transition_requestRate (.inl rfl)
  | rateirq freq => cases h; exact transition_requestRate (.inr rfl)
  | refev src kind count =>
    cases h; exact iteInduction (fun hf => .observed src kind count hf) fun _ => transition_self
  | los src => exact transition_los src h
  | status => rw [exec_status] at h; cases h; exact transition_raise (c := .badCmd) (.inl rfl)
  | settings => rw [exec_settings] at h; cases h; exact transition_raise (c := .badCmd) (.inl rfl)
  | getstatus => cases h; exact .answered _ (by decide)
  | synget freq => cases h; exact .answered _ (by simp [Instr.mnemonic, readRows])
  | clrflags mask => cases h; exact .cleared mask
  | audmsg => cases h; exact transition_self
  | pininit => cases h; exact transition_deliver (by decide)
  | pintgl => cases h; exact transition_deliver (by decide)
  | pintglt off => cases h; exact transition_deliver (by simp [Instr.mnemonic, requestRows])
  | pinfault => cases h; exact .faulted
  | timeout => exact transition_timeout h
  | note => exact transition_note h
  | paccept => exact transition_paccept h
  | pflip => obtain ⟨-, rfl⟩ := whenEnabled_next h; exact .flipped
  | tick => obtain ⟨-, rfl⟩ := whenEnabled_next h; exact .ticked _
  | reset => exact .restored h

/-! ## What the causes say -/

/-- Raising conditions changes flags, and NOTE alone changes notifications. -/
theorem Raised.exists_eq {s u : State} {i : Instr} (h : Raised s i u) :
    ∃ flags missed hard, u = { s with flags := flags, noteMissed := missed, noteHardFail := hard } ∧
      (flags ≠ s.flags → ∃ c, FlagCause s i c) ∧
      (missed ≠ s.noteMissed ∨ hard ≠ s.noteHardFail → i = .note) := by
  induction h with
  | start => exact ⟨_, _, _, rfl, fun hne => absurd rfl hne, fun hne => by simp at hne⟩
  | @raise u h c hc ih =>
    obtain ⟨flags, missed, hard, rfl, -, hnote⟩ := ih
    exact ⟨_, missed, hard, rfl, fun _ => ⟨c, hc⟩, hnote⟩
  | noted h hi missed hard ih =>
    obtain ⟨flags, _, _, rfl, hflags, -⟩ := ih
    exact ⟨flags, missed, hard, rfl, hflags, fun _ => hi⟩

/-- A flag that becomes set has its cause. -/
theorem Raised.flagCause {s u : State} {i : Instr} {c : Condition} (h : Raised s i u)
    (hs : s.flags.getLsbD c.code = false) (hu : u.flags.getLsbD c.code = true) : FlagCause s i c := by
  induction h with
  | start => exact absurd hu (Bool.eq_false_iff.mp hs)
  | raise h hc ih =>
    rw [raise_flags, getLsbD_setFlag, Bool.or_eq_true, decide_eq_true_iff] at hu
    obtain hu | rfl := hu
    · exact ih hu
    · exact hc
  | noted h hi missed hard ih => exact ih hu

/-- The rows that can raise a condition (R261). -/
theorem FlagCause.mnemonic_mem {s : State} {i : Instr} {c : Condition} (h : FlagCause s i c) :
    i.mnemonic ∈ Mnemonic.status :: .settings :: .refev :: switching := by
  cases c with
  | unsupportedFreq => obtain ⟨_, rfl | rfl, -⟩ := h <;> simp [Instr.mnemonic, switching]
  | refTimeout => obtain ⟨rfl, -⟩ := h; decide
  | missedDeadline => obtain ⟨rfl, -⟩ := h; decide
  | timerStall => obtain ⟨_, _, rfl, -⟩ := h; simp [Instr.mnemonic]
  | hardFail => obtain ⟨rfl, -⟩ := h; decide
  | los => obtain ⟨rfl, -⟩ := h; simp [Instr.mnemonic, switching]
  | badCmd =>
    obtain h | ⟨_, rfl, -⟩ := h
    · simp only [Instr.isAnswer, List.contains_iff_mem, List.mem_cons, List.not_mem_nil, or_false] at h
      obtain h | h := h <;> simp [h]
    · simp [Instr.mnemonic, switching]
  | fallback => obtain ⟨-, rfl | rfl | ⟨rfl, -⟩⟩ := h <;> simp [Instr.mnemonic, switching]

theorem SwitchCause.mnemonic_mem {s : State} {i : Instr} {src : ClockSource} {r : Option (BitVec 32)}
    (h : SwitchCause s i src r) : i.mnemonic ∈ switching := by
  cases h <;> simp [Instr.mnemonic, switching]

/-- Whoever switches to another source is not a request for a rate (R246). -/
theorem SwitchCause.mnemonic_mem_of_new_source {s : State} {i : Instr} {src : ClockSource}
    {r : Option (BitVec 32)} (h : SwitchCause s i src r) (hsrc : src ≠ s.activeSource) :
    i.mnemonic ∈ [Mnemonic.selsrc, .los, .timeout, .note, .reset] := by
  cases h with
  | rateSet | rateReported => exact absurd rfl hsrc
  | _ => simp [Instr.mnemonic]

/-- Whoever switches but a request for a rate keeps the rate in force (R226, R230, R152). -/
theorem SwitchCause.rate_eq {s : State} {i : Instr} {src : ClockSource} {r : Option (BitVec 32)}
    (h : SwitchCause s i src r) (hrow : i.mnemonic ∉ [Mnemonic.setrate, .rateirq, .reset])
    {rate : BitVec 32} (hr : r = some rate) : rate = s.currentRate ∧ s.rateValid = true := by
  have kept : ∀ {rate}, keptRate s = some rate → rate = s.currentRate ∧ s.rateValid = true := by
    intro rate hk
    obtain ⟨hv, rfl⟩ : s.rateValid = true ∧ s.currentRate = rate := by simpa [keptRate] using hk
    exact ⟨rfl, hv⟩
  cases h with
  | rateSet | rateReported => simp [Instr.mnemonic] at hrow
  | timedOut he => exact ⟨(Option.some.inj hr).symm, (timeoutEnabled_iff.mp he).2.1⟩
  | selected | lost | failed => exact kept hr

/-! ## Who raises, who switches, who locks -/

@[simp] theorem afterSwitch_flags (src : ClockSource) (r : Option (BitVec 32)) (s : State) :
    (afterSwitch src r s).flags = s.flags := by cases r <;> rfl

@[simp] theorem afterSwitch_activeSource (src : ClockSource) (r : Option (BitVec 32)) (s : State) :
    (afterSwitch src r s).activeSource = src := by cases r <;> rfl

@[simp] theorem afterSwitch_lock (src : ClockSource) (r : Option (BitVec 32)) (s : State) :
    (afterSwitch src r s).lock = .unlocked := by cases r <;> rfl

/-- A forwarded event raises TIMER_STALL or nothing (R144). -/
theorem flagCause_observe {s : State} {src : ClockSource} {kind : EventKind} {count : BitVec 32}
    {c : Condition} (hf : forwarded src s = true) (hs : s.flags.getLsbD c.code = false)
    (ht : (observe count.toNat s).flags.getLsbD c.code = true) :
    FlagCause s (.refev src kind count) c := by
  obtain ⟨rfl, hrate⟩ := forwarded_iff.mp hf
  obtain ⟨-, h⟩ | ⟨hp, hc, h⟩ | ⟨-, -, h⟩ := observe_cases count.toNat s <;> rw [h] at ht
  · exact absurd ht (Bool.eq_false_iff.mp hs)
  · rw [getLsbD_setFlag, hs, Bool.false_or, decide_eq_true_iff] at ht
    subst ht
    exact ⟨kind, count, rfl, hrate, hp, hc⟩
  · exact absurd ht (Bool.eq_false_iff.mp hs)

theorem exec_flagCause {i : Instr} {s t : State} {c : Condition} (h : exec i s = .next t)
    (hs : s.flags.getLsbD c.code = false) (ht : t.flags.getLsbD c.code = true) : FlagCause s i c := by
  have hne := Bool.eq_false_iff.mp hs
  cases exec_transition h with
  | flagged hr => exact hr.flagCause hs ht
  | cleared mask => rw [getLsbD_clearFlags, hs, Bool.false_and] at ht; cases ht
  | observed src kind count hf => exact flagCause_observe hf hs ht
  | switched cause hr => exact hr.flagCause hs (by rwa [afterSwitch_flags] at ht)
  | restored hr => cases hr; simp [State.resetWith] at ht
  | answered | delivered | accepted | flipped | faulted | ticked => exact absurd ht hne

/-- Settles O50: the causes are the rows of R261's table. -/
theorem flagsAreRaisedOnlyByTheirCauses : Obligations.FlagsAreRaisedOnlyByTheirCauses := by
  intro i s t c h hs ht
  have hcause := exec_flagCause h hs ht
  cases c <;> exact hcause

/-- Settles O47: a switch has its cause, and nothing else writes the source. -/
theorem sourceChangesOnlyAsTabulated : Obligations.SourceChangesOnlyAsTabulated := by
  intro i s t h hne
  cases exec_transition h with
  | restored hr => cases hr; exact .inl ⟨rfl, rfl⟩
  | observed => exact absurd (observe_activeSource ..) hne
  | flagged hr => obtain ⟨_, _, _, rfl, -⟩ := hr.exists_eq; exact absurd rfl hne
  | switched cause =>
    rw [afterSwitch_activeSource] at hne ⊢
    cases cause with
    | selected hwired hok => exact .inr (.inl ⟨_, rfl, rfl, hwired, hok.symm⟩)
    | rateSet | rateReported => exact absurd rfl hne
    | lost => exact .inr (.inr ⟨rfl, .inl rfl⟩)
    | timedOut he => exact .inr (.inr ⟨rfl, .inr (.inl ⟨rfl, he⟩)⟩)
    | failed hhard => exact .inr (.inr ⟨rfl, .inr (.inr ⟨rfl, hhard⟩)⟩)
  | cleared | answered | delivered | accepted | flipped | faulted | ticked => exact absurd rfl hne

/-- Settles O48: a switch sequence and RESET clear the loop, and no other effect writes the source or the
rate. -/
theorem transitionsRestartTheLoop : Obligations.TransitionsRestartTheLoop := by
  intro i s t h hne
  cases exec_effect h with
  | switched src r => cases r <;> exact ⟨rfl, rfl, rfl, rfl, rfl, rfl⟩
  | restored hr => cases hr; exact ⟨rfl, rfl, rfl, rfl, rfl, rfl⟩
  | observed src kind count =>
    obtain ⟨-, ho⟩ | ⟨-, -, ho⟩ | ⟨-, -, ho⟩ := observe_cases count.toNat s <;> rw [ho] at hne <;>
      simp [takeSample_eq] at hne
  | driven | ticked | flagged | answered => simp at hne

/-- The changes of `lock` by a sample of magnitude `a` (R147). -/
theorem nextLock_changes {p : Params} {lock : LockState} {dwell a : Nat} (h : nextLock p lock dwell a ≠ lock) :
    (lock = .unlocked ∧ nextLock p lock dwell a = .acquiring) ∨
    (lock = .acquiring ∧ nextLock p lock dwell a = .locked ∧ p.minDwell ≤ dwell + 1 ∧
      a < p.lockThreshold) ∨
    (lock = .locked ∧ nextLock p lock dwell a = .acquiring ∧ p.unlockThreshold < a) := by
  cases lock with
  | unlocked => exact .inl ⟨rfl, rfl⟩
  | acquiring =>
    rw [nextLock] at h ⊢
    split at h
    · obtain ⟨ha, hd⟩ := ‹_ ∧ _›
      exact .inr (.inl ⟨rfl, if_pos ⟨ha, hd⟩, by omega, ha⟩)
    · exact absurd rfl h
  | locked =>
    rw [nextLock] at h ⊢
    split at h
    · exact .inr (.inr ⟨rfl, if_pos ‹_›, ‹_›⟩)
    · exact absurd rfl h

/-- Settles O46: RESET, a switch sequence, or the sample of a forwarded event. -/
theorem lockChangesOnlyAsTabulated : Obligations.LockChangesOnlyAsTabulated := by
  intro i s t h hne
  cases exec_transition h with
  | restored hr => cases hr; exact .inl ⟨rfl, rfl⟩
  | switched cause => exact .inr (.inl ⟨cause.mnemonic_mem, afterSwitch_lock ..⟩)
  | observed src kind count hf =>
    obtain ⟨rfl, hrate⟩ := forwarded_iff.mp hf
    refine .inr (.inr ⟨kind, count, rfl, hrate, ?_⟩)
    obtain ⟨-, ho⟩ | ⟨-, -, ho⟩ | ⟨hp, hc, ho⟩ := observe_cases count.toNat s <;> rw [ho] at hne ⊢
    · exact absurd rfl hne
    · exact absurd rfl hne
    · exact ⟨hp, hc, nextLock_changes hne⟩
  | flagged hr => obtain ⟨_, _, _, rfl, -⟩ := hr.exists_eq; exact absurd rfl hne
  | cleared | answered | delivered | accepted | flipped | faulted | ticked => exact absurd rfl hne

/-! ## Who writes which element -/

/-! A switch sequence leaves the previous count and the pin side (R224). -/

@[simp] theorem afterSwitch_prevCount (src : ClockSource) (r : Option (BitVec 32)) (s : State) :
    (afterSwitch src r s).prevCount = s.prevCount := by cases r <;> rfl

@[simp] theorem afterSwitch_pin (src : ClockSource) (r : Option (BitVec 32)) (s : State) :
    (afterSwitch src r s).pin = s.pin := by cases r <;> rfl

@[simp] theorem afterSwitch_mailbox (src : ClockSource) (r : Option (BitVec 32)) (s : State) :
    (afterSwitch src r s).mailbox = s.mailbox := by cases r <;> rfl

@[simp] theorem afterSwitch_inflight (src : ClockSource) (r : Option (BitVec 32)) (s : State) :
    (afterSwitch src r s).inflight = s.inflight := by cases r <;> rfl

@[simp] theorem afterSwitch_noteMissed (src : ClockSource) (r : Option (BitVec 32)) (s : State) :
    (afterSwitch src r s).noteMissed = s.noteMissed := by cases r <;> rfl

@[simp] theorem afterSwitch_noteHardFail (src : ClockSource) (r : Option (BitVec 32)) (s : State) :
    (afterSwitch src r s).noteHardFail = s.noteHardFail := by cases r <;> rfl

/-- A switch sequence that is no request for a rate leaves the rate as it was. -/
theorem SwitchCause.afterSwitch_rate {s u : State} {i : Instr} {src : ClockSource}
    {r : Option (BitVec 32)} (h : SwitchCause s i src r)
    (hrow : i.mnemonic ∉ [Mnemonic.setrate, .rateirq, .reset]) (hrate : u.currentRate = s.currentRate)
    (hvalid : u.rateValid = s.rateValid) :
    (afterSwitch src r u).currentRate = s.currentRate ∧ (afterSwitch src r u).rateValid = s.rateValid := by
  cases r with
  | none => exact ⟨hrate, hvalid⟩
  | some rate =>
    obtain ⟨rfl, hv⟩ := h.rate_eq hrow rfl
    exact ⟨rfl, hv.symm⟩

/-- Settles O51: each transition writes its elements from its rows; a switch sequence gives a new source or a
new rate only from some of the rows that switch. -/
theorem onlyTheListedStepsWrite : Obligations.OnlyTheListedStepsWrite := by
  intro i s t h
  cases exec_transition h with
  | flagged hr =>
    obtain ⟨flags, missed, hard, rfl, hflags, hnote⟩ := hr.exists_eq
    have hraised (hne : flags ≠ s.flags) :
        i.mnemonic ∈ Mnemonic.clrflags :: .status :: .settings :: .reset :: .refev :: switching := by
      obtain ⟨c, hc⟩ := hflags hne
      have hsub : Mnemonic.status :: .settings :: .refev :: switching ⊆
        Mnemonic.clrflags :: .status :: .settings :: .reset :: .refev :: switching := by decide
      exact hsub hc.mnemonic_mem
    refine ⟨by simp, by simp, by simp, by simp, by simp, by simp, hraised, by simp, by simp, by simp,
      by simp, fun hmissed => ?_, fun hhard => ?_⟩
    · rw [hnote (.inl hmissed)]; decide
    · rw [hnote (.inr hhard)]; decide
  | @switched _ src r u cause hr =>
    obtain ⟨flags, missed, hard, rfl, -, hnote⟩ := hr.exists_eq
    have hsub {l : List Mnemonic} (hl : switching ⊆ l) : i.mnemonic ∈ l := hl cause.mnemonic_mem
    simp only [afterSwitch_activeSource, afterSwitch_prevCount, afterSwitch_pin, afterSwitch_mailbox,
      afterSwitch_inflight, afterSwitch_failed, afterSwitch_noteMissed, afterSwitch_noteHardFail]
    refine ⟨cause.mnemonic_mem_of_new_source, fun hrate => ?_, fun _ => hsub (by decide),
      fun _ => hsub (by decide), by simp, fun _ => hsub (by decide), fun _ => hsub (by decide), by simp,
      by simp, by simp, by simp, fun hmissed => ?_, fun hhard => ?_⟩
    · by_contra hrow
      obtain ⟨hcur, hval⟩ := cause.afterSwitch_rate (u := { s with
        flags := flags, noteMissed := missed, noteHardFail := hard }) hrow rfl rfl
      exact hrate.elim (· hcur) (· hval)
    · rw [hnote (.inl hmissed)]; decide
    · rw [hnote (.inr hhard)]; decide
  | observed src kind count =>
    obtain ⟨-, ho⟩ | ⟨-, -, ho⟩ | ⟨-, -, ho⟩ := observe_cases count.toNat s <;> rw [ho] <;>
      simp [Instr.mnemonic, takeSample_eq]
  | delivered r hrow =>
    simp only [requestRows, List.mem_cons, List.not_mem_nil, or_false] at hrow
    obtain hrow | hrow | hrow := hrow <;> simp [hrow]
  | answered => simp
  | cleared | accepted | flipped | ticked | restored => simp [Instr.mnemonic]
  | faulted => simp [Instr.mnemonic, pinFaulted]

end Sys2Proof.Machine
end

section
/-! The invariants I-a to I-j of 10_state.md R43: the reset state meets them (R300), the loop's part is kept by
every effect, the pin driver's part by every transition, and HARD_FAIL is set only where Internal is active;
and the obligations on the reset state, on the step and on a failed driver. -/

namespace Sys2Proof.Machine

open Sys2Proof.Safety

/-! ## The reset state -/

theorem tvCfg_valid : Params.tvCfg.Valid := by constructor <;> decide

theorem inv_resetWith {p : Params} (hp : p.Valid) : Inv (State.resetWith p) where
  params := hp
  fracIndex_lt := hp.fracInit_lt
  adder_lt := Nat.zero_lt_of_lt hp.timerMod_low
  integ_low := Int.neg_nonpos_of_nonneg (Int.natCast_nonneg _)
  integ_high := Int.natCast_nonneg _
  locked := nofun
  synthValid_eq := rfl
  synthReg_eq := nofun
  hardFail_internal _ := rfl
  failed_idle := nofun
  inflight_low := nofun
  unprimed _ := ⟨rfl, rfl⟩

theorem bounds_resetWith {p : Params} (hp : p.Valid) : Bounds (State.resetWith p) where
  prevCount_lt := Nat.zero_lt_of_lt hp.timerMod_low
  dwell_le := Nat.zero_le _
  wdog_le := Nat.zero_le _
  inflight_high := nofun
  noRate _ := rfl
  rate_supported := nofun
  rate_adder := nofun
  armed := iff_of_true rfl rfl

/-- Settles O13: of the constraints the two invariants need only those on the table and on TIMER_MOD. -/
theorem resetStateMeetsTheInvariants : Obligations.ResetStateMeetsTheInvariants :=
  ⟨rfl, tvCfg_valid, fun _ hp => ⟨inv_resetWith hp, bounds_resetWith hp⟩⟩

/-- RESET leaves the reset state but for free values that no invariant bounds. -/
theorem inv_reset {s t : State} (hp : s.cfg.Valid) (h : execReset s = .next t) : Inv t := by
  cases h
  exact { inv_resetWith hp with synthReg_eq := nofun }

/-! ## The loop -/

/-- What R43 says of the control loop: I-a to I-f and I-j. -/
structure LoopInv (s : State) : Prop where
  params : s.cfg.Valid
  fracIndex_lt : s.fracIndex < s.cfg.tableSize
  adder_lt : s.adder < s.cfg.timerMod
  integ_low : -(s.cfg.iMax : Int) ≤ s.integ
  integ_high : s.integ ≤ (s.cfg.iMax : Int)
  locked : s.lock = .locked → s.prevValid = true ∧ s.firstUpdate = false ∧ s.rateValid = true
  synthValid_eq : s.synthValid = s.rateValid
  synthReg_eq : s.synthValid = true → s.synthReg = fracWord s.cfg s.fracIndex
  unprimed : s.prevValid = false → s.lock = .unlocked ∧ s.integ = 0

theorem loopInv_of_inv {s : State} (hi : Inv s) : LoopInv s := { hi with }

theorem loopInv_afterSwitch {s : State} (hs : LoopInv s) (src : ClockSource) (r : Option (BitVec 32)) :
    LoopInv (afterSwitch src r s) := by
  have hlow : -(s.cfg.iMax : Int) ≤ 0 := Int.neg_nonpos_of_nonneg (Int.natCast_nonneg _)
  have hhigh : (0 : Int) ≤ s.cfg.iMax := Int.natCast_nonneg _
  cases r with
  | none =>
    exact { hs with
      integ_low := hlow, integ_high := hhigh, locked := nofun, unprimed := fun _ => ⟨rfl, rfl⟩ }
  | some rate =>
    exact {
      params := hs.params
      fracIndex_lt := hs.params.fracInit_lt
      adder_lt := Nat.mod_lt _ (Nat.zero_lt_of_lt hs.params.timerMod_low)
      integ_low := hlow
      integ_high := hhigh
      locked := nofun
      synthValid_eq := rfl
      synthReg_eq := fun _ => rfl
      unprimed := fun _ => ⟨rfl, rfl⟩ }

/-- A table that has an entry has the one the index moves to (R118). -/
theorem moveIndex_lt {p : Params} (hp : 1 ≤ p.tableSize) (index : Nat) (move : Int) :
    moveIndex p index move < p.tableSize := by
  have hcast := moveIndex_cast hp index move
  omega

/-- A sample saturates the integrator and the index, and is taken only where a previous count is. -/
theorem loopInv_takeSample {s : State} (hs : LoopInv s) (hp : s.prevValid = true) (hrate : s.rateValid = true)
    (count : Nat) : LoopInv (takeSample count s) := by
  have hends : -(s.cfg.iMax : Int) ≤ s.cfg.iMax := by omega
  rw [takeSample_eq]
  exact { hs with
    fracIndex_lt := moveIndex_lt hs.params.tableSize_pos _ _
    integ_low := (clamp_bounds _ hends).1
    integ_high := (clamp_bounds _ hends).2
    locked := fun _ => ⟨hp, rfl, hrate⟩
    synthReg_eq := fun _ => rfl
    unprimed := fun h => absurd hp (Bool.eq_false_iff.mp h) }

theorem loopInv_observe {s : State} (hs : LoopInv s) (hrate : s.rateValid = true) (count : Nat) :
    LoopInv (observe count s) := by
  obtain ⟨hp, h⟩ | ⟨-, -, h⟩ | ⟨hp, -, h⟩ := observe_cases count s <;> rw [h]
  · obtain ⟨hlock, -⟩ := hs.unprimed hp
    exact { hs with locked := fun hl => (nomatch hlock.symm.trans hl), unprimed := nofun }
  · exact { hs with }
  · exact loopInv_takeSample (s := { s with wdog := 0 }) { hs with } hp hrate count

theorem exec_loopInv {i : Instr} {s t : State} (hs : LoopInv s) (h : exec i s = .next t) : LoopInv t := by
  cases exec_effect h with
  | observed src kind count hf => exact loopInv_observe hs (forwarded_iff.mp hf).2 _
  | switched src r flags missed hard =>
    have hu : LoopInv { s with flags := flags, noteMissed := missed, noteHardFail := hard } := { hs with }
    exact loopInv_afterSwitch hu src r
  | restored hr => exact loopInv_of_inv (inv_reset hs.params hr)
  | driven | ticked | flagged | answered => exact { hs with }

/-! ## The pin driver -/

/-- I-h: a failed driver has nothing to do, and its pin is undefined. -/
def FailedIdle (s : State) : Prop :=
  s.failed = true → s.mailbox = none ∧ s.inflight = none ∧ s.pin = .undef

theorem failedIdle_of_pinView {s t : State} {missed hard : Bool}
    (h : pinView t = { pinView s with noteMissed := missed, noteHardFail := hard })
    (hs : FailedIdle s) : FailedIdle t := by
  have hfailed : t.failed = s.failed := congrArg (·.failed) h
  have hmail : t.mailbox = s.mailbox := congrArg (·.mailbox) h
  have hfly : t.inflight = s.inflight := congrArg (·.inflight) h
  have hpin : t.pin = s.pin := congrArg (·.pin) h
  rw [FailedIdle, hfailed, hmail, hfly, hpin]
  exact hs

/-- A driver that serves owes I-h nothing. -/
theorem failedIdle_of_serving {s : State} (h : s.failed = false) : FailedIdle s :=
  fun hf => absurd hf (Bool.eq_false_iff.mp h)

/-- A failed driver takes no request, and has no flip to make or to count down (R184, R188, R192, R196). -/
theorem exec_failedIdle {i : Instr} {s t : State} (hs : FailedIdle s) (h : exec i s = .next t) :
    FailedIdle t := by
  by_cases hl : i.mnemonic ∈ loopSide
  · obtain ⟨_, _, hv⟩ := pinView_exec_loop_notes hl h
    exact failedIdle_of_pinView hv hs
  cases exec_transition h with
  | delivered _ _ hserving => exact failedIdle_of_serving hserving
  | accepted _ _ _ hserving => exact failedIdle_of_serving hserving
  | flipped =>
    intro hf
    obtain ⟨hm, -, hpin⟩ := hs hf
    exact ⟨hm, rfl, by rw [hpin]; rfl⟩
  | faulted => exact fun _ => ⟨rfl, rfl, rfl⟩
  | ticked =>
    intro hf
    obtain ⟨hm, hfly, hpin⟩ := hs hf
    exact ⟨hm, by rw [hfly]; rfl, hpin⟩
  | restored hr => cases hr; exact nofun
  | flagged hr => obtain ⟨_, _, _, rfl, -⟩ := hr.exists_eq; exact hs
  | switched cause =>
    have hsub : switching ⊆ loopSide := by decide
    exact absurd (hsub cause.mnemonic_mem) hl
  | observed => simp [Instr.mnemonic, loopSide] at hl
  | cleared | answered => exact hs

/-- Settles O55: the failure lasts until RESET, and I-h says what a failed driver does. -/
theorem failedDriverStaysFailed : Obligations.FailedDriverStaysFailed := by
  intro is s t hi hfailed hreset h
  have hkept : ∀ i u v, i ≠ Instr.reset → u.failed = true ∧ FailedIdle u → exec i u = .next v →
      v.failed = true ∧ FailedIdle v := fun _ _ _ hne ⟨hf, hidle⟩ hexec =>
    ⟨(exec_effect hexec).keepsFailed hne hf, exec_failedIdle hidle hexec⟩
  obtain ⟨hf, hidle⟩ := runInstrs_keeps hkept is s t (fun _ hmem => ne_of_mem_of_not_mem hmem hreset)
    ⟨hfailed, hi.failed_idle⟩ h
  obtain ⟨-, hfly, hpin⟩ := hidle hf
  exact ⟨hf, hpin, exec_paccept_of_failed hf, exec_pflip_of_idle hfly⟩

/-! ## The hard failure -/

/-- NOTE leaves Internal active when it records a hard failure (R244). -/
theorem exec_note_activeSource {s t : State} (hhard : s.noteHardFail = true) (h : exec .note s = .next t) :
    t.activeSource = .internal := by
  obtain ⟨-, rfl⟩ := whenEnabled_next h
  have hpending : (takeMissed s).noteHardFail = true := (takeMissed_noteHardFail s).trans hhard
  by_cases hsrc : (takeMissed s).activeSource = .internal
  · exact takeHardFail_activeSource_internal hsrc
  · rw [takeHardFail_of_external hpending hsrc, afterSwitch_activeSource]

/-- I-g: where HARD_FAIL is set, Internal is active: a recorded failure stays recorded, and NOTE, which alone
records one, leaves Internal active. -/
theorem exec_hardFail_internal {i : Instr} {s t : State}
    (hs : flagSet s.flags .hardFail = true → s.activeSource = .internal) (h : exec i s = .next t)
    (ht : flagSet t.flags .hardFail = true) : t.activeSource = .internal := by
  cases hflag : flagSet s.flags .hardFail with
  | true => exact exec_keepsInternal hflag (hs hflag) h
  | false =>
    obtain ⟨rfl, hhard⟩ : FlagCause s i .hardFail := exec_flagCause h hflag ht
    exact exec_note_activeSource hhard h

/-! ## Every step -/

theorem exec_inv {i : Instr} {s t : State} (hi : Inv s) (h : exec i s = .next t) : Inv t :=
  { exec_loopInv (loopInv_of_inv hi) h, exec_pinWorkInv (pinWorkInv_of_inv hi) h with
    failed_idle := exec_failedIdle hi.failed_idle h
    hardFail_internal := exec_hardFail_internal hi.hardFail_internal h }

/-- An illegal word does no more than an answer taken as input (R96). -/
theorem inv_illegalWord {s : State} (hi : Inv s) (w : Word) : Inv (illegalWord w s) :=
  iteInduction (fun _ => hi) fun _ => exec_inv hi (exec_settings 0#16 false false 0#32 s)

/-- Settles O15: each part of the invariant is kept by every instruction, and none reads what a turn
writes. -/
theorem stepKeepsTheInvariants : Obligations.StepKeepsTheInvariants := by
  intro s t hi h
  obtain ⟨schedule, owed, patience, freeCount, u, hu, hrun⟩ := step_cases h
  have hiu : Inv u := by rw [hu]; exact { hi with }
  obtain ⟨i, hexec, -⟩ | ⟨w, rfl⟩ := hrun
  · exact exec_inv hiu hexec
  · exact inv_illegalWord hiu w

end Sys2Proof.Machine
end

section
/-! Noninterference with the pin driver (60_exceptions.md R286, 42_pin_driver.md R194): its steps do the same on
the same pin side, whatever loop stands beside it; and the obligation on two states that agree on the pin
side. -/

namespace Sys2Proof.Machine

open Sys2Proof.Safety

/-- The pin side of `s` beside the control loop of `l`. -/
def besideLoop (l s : State) : State :=
  { l with
    cfg := s.cfg, pin := s.pin, mailbox := s.mailbox, inflight := s.inflight, failed := s.failed
    noteMissed := s.noteMissed, noteHardFail := s.noteHardFail, now := s.now }

theorem besideLoop_of_pinView {s t : State} (h : pinView s = pinView t) : besideLoop t s = t := by
  simp only [pinView, PinView.mk.injEq] at h
  simp only [besideLoop, h]

theorem pinView_deliver_besideLoop (r : PinRequest) (l s : State) :
    pinView (deliver r (besideLoop l s)) = pinView (deliver r s) := by
  cases hf : s.failed with
  | false => rw [deliver_of_serving hf, deliver_of_serving (s := besideLoop l s) hf]; rfl
  | true => rw [deliver_of_failed hf, deliver_of_failed (s := besideLoop l s) hf]; rfl

theorem takeRequest_of_empty {s : State} (h : s.mailbox = none) : takeRequest s = s := by
  rw [takeRequest, h]

theorem pinView_takeRequest_besideLoop (l s : State) :
    pinView (takeRequest (besideLoop l s)) = pinView (takeRequest s) := by
  cases hm : s.mailbox with
  | none => rw [takeRequest_of_empty hm, takeRequest_of_empty (s := besideLoop l s) hm]; rfl
  | some r =>
    rw [takeRequest_of_waiting hm, takeRequest_of_waiting (s := besideLoop l s) hm]
    cases r with
    | init => rfl
    | immediate => rfl
    | timed off =>
      obtain hlead | hlead := lt_or_ge off.toInt (s.cfg.minLeadTicks : Int)
      · rw [acceptRequest_timed_of_missed (s := { s with mailbox := none }) hlead,
          acceptRequest_timed_of_missed (s := { besideLoop l s with mailbox := none }) hlead]
        rfl
      · rw [acceptRequest_timed_of_lead (s := { s with mailbox := none }) hlead,
          acceptRequest_timed_of_lead (s := { besideLoop l s with mailbox := none }) hlead]
        rfl

/-- A step of the driver or of the time base, and RESET, complete beside every loop, with the same pin side
after them. -/
theorem exec_besideLoop {i : Instr} {s s' : State} (hl : i.mnemonic ∉ loopSide) (h : exec i s = .next s')
    (l : State) : ∃ t', exec i (besideLoop l s) = .next t' ∧ pinView t' = pinView s' := by
  cases i with
  | pininit => cases h; exact ⟨_, rfl, pinView_deliver_besideLoop _ l s⟩
  | pintgl => cases h; exact ⟨_, rfl, pinView_deliver_besideLoop _ l s⟩
  | pintglt off => cases h; exact ⟨_, rfl, pinView_deliver_besideLoop _ l s⟩
  | pinfault => cases h; exact ⟨_, rfl, rfl⟩
  | paccept =>
    obtain ⟨he, rfl⟩ := whenEnabled_next h
    exact ⟨_, if_pos he, pinView_takeRequest_besideLoop l s⟩
  | pflip => obtain ⟨he, rfl⟩ := whenEnabled_next h; exact ⟨_, if_pos he, rfl⟩
  | tick => obtain ⟨he, rfl⟩ := whenEnabled_next h; exact ⟨_, if_pos he, rfl⟩
  | reset => cases h; exact ⟨_, rfl, rfl⟩
  | _ => exact absurd (by simp [Instr.mnemonic, loopSide]) hl

/-- An instruction of the loop changes two equal pin sides alike: NOTE takes the notifications of both, and
any other leaves both. -/
theorem pinView_exec_loop_congr {i : Instr} {s t s' t' : State} (hl : i.mnemonic ∈ loopSide)
    (h : pinView s = pinView t) (hs : exec i s = .next s') (ht : exec i t = .next t') :
    pinView s' = pinView t' := by
  by_cases hn : i = .note
  · subst hn
    rw [pinView_note hs, pinView_note ht, h]
  · rw [pinView_exec_loop hl hn hs, pinView_exec_loop hl hn ht, h]

/-- Settles O56: the second state is the pin side of the first beside another loop. -/
theorem pinDriverIgnoresTheLoop : Obligations.PinDriverIgnoresTheLoop := by
  intro i s t h
  have hbeside (hl : i.mnemonic ∉ loopSide) {s' : State} (hs : exec i s = .next s') :
      ∃ t', exec i t = .next t' ∧ pinView t' = pinView s' := by
    have hsame := exec_besideLoop hl hs t
    rwa [besideLoop_of_pinView h] at hsame
  refine ⟨fun hp s' hs => ?_, fun s' t' hs ht => ?_⟩
  · have hdisjoint : ∀ m ∈ pinSide, m ∉ loopSide := by decide
    obtain ⟨t', ht, -⟩ := hbeside (hdisjoint _ hp) hs
    exact ⟨t', ht⟩
  · by_cases hl : i.mnemonic ∈ loopSide
    · exact pinView_exec_loop_congr hl h hs ht
    · obtain ⟨u, hu, hview⟩ := hbeside hl hs
      cases ht.symm.trans hu
      exact hview.symm

end Sys2Proof.Machine
end

section
/-! The window of a flip (42_pin_driver.md R190 to R196): a committed flip's countdown and the ghost tick count
have a constant sum until it is performed, and ticks alone reach every instant of the window; and the
obligation on accepted flips. -/

namespace Sys2Proof.Machine

open Sys2Proof.Safety

/-- A flip is committed for the tick `due`. -/
def DueAt (due : Int) (s : State) : Prop :=
  ∃ rem, s.inflight = some rem ∧ rem + s.now = due

/-! ## The commitment -/

/-- PACCEPT of a request for a flip commits to its nominal delay (R188, R190). -/
theorem inflight_acceptRequest {r : PinRequest} (hr : r ≠ .init) (s : State) :
    (acceptRequest r s).inflight = some (nominalDelay s.cfg r) := by
  cases r with
  | init => exact absurd rfl hr
  | immediate => rfl
  | timed off =>
    obtain ⟨hlead, h⟩ | ⟨hlead, h⟩ := acceptTimed_cases (offsetOf off) s <;> rw [acceptRequest, h]
    · exact congrArg some (if_pos hlead).symm
    · exact congrArg some (if_neg hlead).symm

theorem exec_paccept_commits {s t : State} {r : PinRequest} (hm : s.mailbox = some r) (hr : r ≠ .init)
    (h : exec .paccept s = .next t) :
    t.inflight = some (nominalDelay s.cfg r) ∧ t.cfg = s.cfg ∧ t.now = s.now := by
  have heffect := exec_effect h
  obtain ⟨-, rfl⟩ := whenEnabled_next h
  refine ⟨?_, heffect.cfg_eq, heffect.now_eq nofun⟩
  rw [takeRequest_of_waiting hm, inflight_acceptRequest hr]

/-! ## Until the flip -/

/-- A committed flip stays due at its tick until it is performed or the driver fails or is reset: a second
acceptance waits for it (R188), and each tick counts it down (R196). -/
theorem exec_keepsDueAt {i : Instr} {s t : State} {due : Int} (hflip : i ≠ .pflip) (hfault : i ≠ .pinfault)
    (hreset : i ≠ .reset) (hs : DueAt due s) (h : exec i s = .next t) : DueAt due t := by
  obtain ⟨rem, hfly, hdue⟩ := hs
  by_cases htick : i = .tick
  · subst htick
    obtain ⟨-, rfl⟩ := whenEnabled_next h
    refine ⟨rem - 1, by rw [hfly]; rfl, ?_⟩
    push_cast
    omega
  have haccept : i ≠ .paccept := by
    rintro rfl
    obtain ⟨he, -⟩ := whenEnabled_next h
    cases hfly.symm.trans (pacceptEnabled_iff.mp he).2.1
  refine ⟨rem, ?_, by rwa [(exec_effect h).now_eq htick]⟩
  rw [← hfly]
  by_contra hwritten
  obtain ⟨-, -, -, -, -, -, -, -, -, hwriter, -⟩ := onlyTheListedStepsWrite i s t h
  have hmem := hwriter hwritten
  cases i <;> simp [Instr.mnemonic] at hmem hflip hfault hreset htick haccept

/-- Time does not run backwards. -/
theorem exec_now_le {i : Instr} {s t : State} (h : exec i s = .next t) : s.now ≤ t.now := by
  by_cases htick : i = .tick
  · subst htick
    obtain ⟨-, rfl⟩ := whenEnabled_next h
    exact Nat.le_succ _
  · exact ((exec_effect h).now_eq htick).ge

/-- PFLIP comes within the jitter of the tick the flip is due at (R192). -/
theorem exec_pflip_window {s t : State} {due : Int} (hs : DueAt due s) (h : exec .pflip s = .next t) :
    t.now = s.now ∧ due - s.cfg.jitterTicks ≤ s.now ∧ (s.now : Int) ≤ due + s.cfg.jitterTicks := by
  obtain ⟨rem, hfly, hdue⟩ := hs
  obtain ⟨he, rfl⟩ := whenEnabled_next h
  obtain ⟨rem', hfly', hlow, hhigh⟩ := pflipEnabled_iff.mp he
  obtain rfl : rem = rem' := Option.some.inj (hfly.symm.trans hfly')
  exact ⟨rfl, by omega, by omega⟩

/-! ## Every instant of the window -/

/-- While a flip is committed its countdown alone decides about a tick (R196). -/
theorem exec_tick_of_flying {s : State} {rem : Int} (hfly : s.inflight = some rem)
    (hopen : -(s.cfg.jitterTicks : Int) < rem) :
    ∃ t, exec .tick s = .next t ∧ t.cfg = s.cfg ∧ t.inflight = some (rem - 1) ∧ t.now = s.now + 1 := by
  obtain ⟨-, hflying, -⟩ := tickFollowsItsRule s rem
  obtain ⟨t, ht, heq⟩ := hflying hfly hopen
  obtain ⟨hcfg, -, -, -, -, hnow, -⟩ := instructionsKeepTheModelsOwnFields .tick s t ht
  exact ⟨t, ht, hcfg, congrArg (·.inflight) heq, hnow rfl⟩

theorem runInstrs_cons_of_next {i : Instr} {is : List Instr} {s u : State} (h : exec i s = .next u) :
    runInstrs (i :: is) s = runInstrs is u := by
  rw [runInstrs, h]

/-- Ticks alone count down to every value of the window. -/
theorem runInstrs_ticks_of_flying (k : Nat) {s : State} {rem : Int} (hfly : s.inflight = some rem)
    (hopen : -(s.cfg.jitterTicks : Int) ≤ rem - k) :
    ∃ u, runInstrs (List.replicate k .tick) s = .next u ∧ u.cfg = s.cfg ∧
      u.inflight = some (rem - k) ∧ u.now = s.now + k := by
  induction k generalizing s rem with
  | zero => exact ⟨s, rfl, rfl, by simpa using hfly, rfl⟩
  | succ k ih =>
    push_cast at hopen ⊢
    obtain ⟨t, ht, hcfg, hflyt, hnow⟩ := exec_tick_of_flying hfly (by omega)
    obtain ⟨u, hu, hcfgu, hflyu, hnowu⟩ := ih hflyt (by rw [hcfg]; omega)
    refine ⟨u, ?_, hcfgu.trans hcfg, ?_, by omega⟩
    · rw [List.replicate_succ, runInstrs_cons_of_next ht, hu]
    · rw [hflyu, sub_sub, add_comm (1 : Int)]

/-- Settles O58: the commitment is due at the nominal instant, a run keeps it so until the flip, and ticks
reach each instant around it. -/
theorem flipsStayInTheirWindow : Obligations.FlipsStayInTheirWindow := by
  intro s t r hm hr h
  obtain ⟨hfly, hcfg, hnow⟩ := exec_paccept_commits hm hr h
  refine ⟨fun is u v hflip hfault hreset hrun hpflip => ?_, fun n hn hlow hhigh => ?_⟩
  · have hkept : ∀ i a b, (i ≠ Instr.pflip ∧ i ≠ .pinfault ∧ i ≠ .reset) →
        DueAt (nominalDelay s.cfg r + s.now) a ∧ s.now ≤ a.now → exec i a = .next b →
        DueAt (nominalDelay s.cfg r + s.now) b ∧ s.now ≤ b.now :=
      fun _ _ _ ⟨hi, hi', hi''⟩ ⟨hdue, hle⟩ hexec =>
        ⟨exec_keepsDueAt hi hi' hi'' hdue hexec, hle.trans (exec_now_le hexec)⟩
    obtain ⟨hdue, hle⟩ := runInstrs_keeps hkept is t u
      (fun _ hmem => ⟨ne_of_mem_of_not_mem hmem hflip, ne_of_mem_of_not_mem hmem hfault,
        ne_of_mem_of_not_mem hmem hreset⟩)
      ⟨⟨_, hfly, by rw [hnow]⟩, hnow.ge⟩ hrun
    obtain ⟨hnowv, hlow, hhigh⟩ := exec_pflip_window hdue hpflip
    rw [runInstrs_cfg is hrun, hcfg] at hlow hhigh
    omega
  · have hopen : -(t.cfg.jitterTicks : Int) ≤ nominalDelay s.cfg r - (n - s.now : Nat) := by
      rw [hcfg]; omega
    obtain ⟨u, hu, hcfgu, hflyu, hnowu⟩ := runInstrs_ticks_of_flying (n - s.now) hfly hopen
    have henabled : pflipEnabled u = true :=
      pflipEnabled_iff.mpr ⟨_, hflyu, by rwa [hcfgu], by rw [hcfgu, hcfg]; omega⟩
    exact ⟨u, _, hu, exec_pflip_of_enabled henabled, by dsimp only; omega⟩

end Sys2Proof.Machine
end

section
/-! From a fresh switch sequence to a lock (41_pll_core.md R147, R148): where quiet samples bring the lock
stage, counted in reference events; and the obligation on a run of them. -/

namespace Sys2Proof.Machine

open Sys2Proof.Safety

/-- Where `n` quiet events since the loop was reset have brought the lock stage: the first only primes, the
second starts the dwell, and the last of the dwell locks. -/
structure QuietLock (n : Nat) (s : State) : Prop where
  unlocked : n ≤ 1 → s.lock = .unlocked
  acquiring : 2 ≤ n → n < s.cfg.minDwell + 2 → s.lock = .acquiring ∧ s.dwell + 2 = n
  locked : s.cfg.minDwell + 2 ≤ n → s.lock = .locked

/-- A quiet sample brings the lock stage one event further. -/
theorem quietLock_lockStage {n a : Nat} {s : State} (hvalid : s.cfg.Valid) (hn : 1 ≤ n)
    (hs : QuietLock n s) (ha : a < s.cfg.lockThreshold) : QuietLock (n + 1) (lockStage a s) := by
  have hdwell := hvalid.minDwell_pos
  obtain hfirst | hlater := Nat.lt_or_ge n 2
  · rw [lockStage_of_unlocked (hs.unlocked (by omega))]
    exact ⟨fun _ => by omega, fun _ _ => ⟨rfl, by dsimp only; omega⟩,
      fun hlong => by dsimp only at hlong; omega⟩
  obtain hshort | hfull := Nat.lt_or_ge n (s.cfg.minDwell + 2)
  · obtain ⟨hlock, hcount⟩ := hs.acquiring hlater hshort
    obtain hd | hd := Nat.lt_or_ge (s.dwell + 1) s.cfg.minDwell
    · rw [lockStage_of_dwelling hlock ha hd]
      exact ⟨fun _ => by omega, fun _ _ => ⟨hlock, by dsimp only; omega⟩,
        fun hlong => by dsimp only at hlong; omega⟩
    · rw [lockStage_of_dwelt hlock ha hd]
      exact ⟨fun _ => by omega, fun _ hshort => by dsimp only at hshort; omega,
        fun _ => rfl⟩
  · rw [lockStage_of_kept (hs.locked hfull) (ha.trans hvalid.unlockThreshold_gt).le]
    exact ⟨fun _ => by omega, fun _ _ => by omega, fun _ => hs.locked hfull⟩

/-- The loop after `n` events of a run of quiet ones: primed with the last count `a`, and with what the run
started with of the parameters, the source and `adder`. -/
structure QuietAfter (s : State) (n : Nat) (a : BitVec 32) (t : State) : Prop where
  cfg_eq : t.cfg = s.cfg
  source_eq : t.activeSource = s.activeSource
  adder_eq : t.adder = s.adder
  rate : t.rateValid = true
  primed : t.prevValid = true
  prevCount_eq : t.prevCount = a.toNat
  lock : QuietLock n t

/-- The first event only primes (R141). -/
theorem exec_refev_primes {s : State} (kind : EventKind) (a : BitVec 32) (hrate : s.rateValid = true)
    (hp : s.prevValid = false) (hl : s.lock = .unlocked) :
    ∃ t, exec (.refev s.activeSource kind a) s = .next t ∧ QuietAfter s 1 a t := by
  refine ⟨_, exec_refev_of_forwarded kind a rfl hrate, ?_⟩
  rw [observe_of_unprimed hp]
  exact ⟨rfl, rfl, rfl, hrate, rfl, rfl, fun _ => hl, fun _ => by omega, fun _ => by omega⟩

/-- Each further event that is quiet brings the lock stage one event further. -/
theorem exec_refev_quiet {s t : State} {n : Nat} {a b : BitVec 32} (kind : EventKind)
    (hvalid : s.cfg.Valid) (hn : 1 ≤ n) (ht : QuietAfter s n a t) (hne : b ≠ a)
    (hsmall : (errorSample s.cfg.timerMod b.toNat a.toNat s.adder).natAbs < s.cfg.lockThreshold) :
    ∃ u, exec (.refev s.activeSource kind b) t = .next u ∧ QuietAfter s (n + 1) b u := by
  obtain ⟨hcfg, hsrc, hadder, hrate, hp, hprev, hlock⟩ := ht
  refine ⟨_, exec_refev_of_forwarded kind b hsrc.symm hrate, ?_⟩
  rw [observe_of_sample hp (by rw [hprev]; exact fun h => hne (BitVec.eq_of_toNat_eq h))]
  rw [← hcfg, ← hadder, ← hprev] at hsmall
  refine ⟨hcfg, hsrc, hadder, hrate, hp, rfl, ?_⟩
  refine quietLock_lockStage (s := applyUpdate _ _) ?_ hn ?_ hsmall
  · exact hcfg ▸ hvalid
  · exact { hlock with }

/-- A run of further events. -/
theorem runInstrs_quiet {s : State} (kind : EventKind) (hvalid : s.cfg.Valid) (counts : List (BitVec 32)) :
    ∀ {n : Nat} {a : BitVec 32} {t : State}, 1 ≤ n → QuietAfter s n a t →
      quietCounts s.cfg s.adder (a :: counts) →
      ∃ u, runInstrs (counts.map (fun c => .refev s.activeSource kind c)) t = .next u ∧ u.cfg = s.cfg ∧
        QuietLock (n + counts.length) u := by
  induction counts with
  | nil => exact fun {_ _ t} _ ht _ => ⟨t, rfl, ht.cfg_eq, ht.lock⟩
  | cons b counts ih =>
    intro n a t hn ht ⟨hne, hsmall, hquiet⟩
    obtain ⟨u, hu, hafter⟩ := exec_refev_quiet kind hvalid hn ht hne hsmall
    obtain ⟨v, hv, hcfg, hlock⟩ := ih (Nat.le_add_left 1 n) hafter hquiet
    refine ⟨v, (runInstrs_cons_of_next hu).trans hv, hcfg, ?_⟩
    rwa [List.length_cons, Nat.add_comm counts.length, ← Nat.add_assoc]

/-- Settles O59: the first event primes, and the others bring the lock stage on by one each. -/
theorem quietEventsReachLocked : Obligations.QuietEventsReachLocked := by
  intro s kind counts hvalid hrate hp hl hquiet
  cases counts with
  | nil => exact ⟨s, rfl, fun _ => hl, fun h => by simp at h, fun h => by simp at h⟩
  | cons a counts =>
    obtain ⟨t, ht, hafter⟩ := exec_refev_primes kind a hrate hp hl
    obtain ⟨u, hu, hcfg, hlock⟩ := runInstrs_quiet kind hvalid counts (Nat.le_refl 1) hafter hquiet
    rw [Nat.add_comm] at hlock
    obtain ⟨hunlocked, hacquiring, hlocked⟩ := hlock
    rw [hcfg] at hacquiring hlocked
    exact ⟨u, (runInstrs_cons_of_next ht).trans hu, hunlocked,
      fun h2 hshort => (hacquiring h2 hshort).1, hlocked⟩

end Sys2Proof.Machine
end

section
/-! The unspecified values (10_state.md R44, 93_implementation_defined.md U11, U12): `prevCount` while
`prevValid` is 0 and `synthReg` while `synthValid` is 0 decide nothing: every operation takes states that
differ only there to states that differ only there; and the obligation on the step. -/

namespace Sys2Proof.Machine

open Sys2Proof.Safety

/-! ## States that differ only in unspecified values -/

/-- Two states agree but for unspecified values. -/
def SameSeen (s t : State) : Prop := hideUnspecified s = hideUnspecified t

/-- The state with other values in the two elements that can be unspecified. -/
def withValues (count : Nat) (word : BitVec 32) (s : State) : State :=
  { s with prevCount := count, synthReg := word }

theorem hideUnspecified_withValues (count : Nat) (word : BitVec 32) (s : State) :
    hideUnspecified (withValues count word s) =
      { s with
        prevCount := if s.prevValid then count else 0
        synthReg := if s.synthValid then word else 0#32 } := rfl

/-- The values may differ only where they are unspecified. -/
theorem sameSeen_withValues {s : State} {count : Nat} {word : BitVec 32}
    (hc : s.prevValid = true → count = s.prevCount) (hw : s.synthValid = true → word = s.synthReg) :
    SameSeen s (withValues count word s) := by
  rw [SameSeen, hideUnspecified_withValues, hideUnspecified]
  congr 1
  · exact ite_congr rfl (fun h => (hc h).symm) fun _ => rfl
  · exact ite_congr rfl (fun h => (hw h).symm) fun _ => rfl

theorem SameSeen.exists_eq {s t : State} (h : SameSeen s t) :
    ∃ count word, t = withValues count word s ∧ (s.prevValid = true → count = s.prevCount) ∧
      (s.synthValid = true → word = s.synthReg) := by
  refine ⟨t.prevCount, t.synthReg, ?_, fun hp => ?_, fun hv => ?_⟩
  · have hsame : withValues t.prevCount t.synthReg (hideUnspecified t) =
        withValues t.prevCount t.synthReg (hideUnspecified s) := congrArg _ h.symm
    exact hsame
  · have hpt : t.prevValid = true := (congrArg (·.prevValid) h).symm.trans hp
    have hcount := congrArg (·.prevCount) h
    simpa [hideUnspecified, hp, hpt] using hcount.symm
  · have hvt : t.synthValid = true := (congrArg (·.synthValid) h).symm.trans hv
    have hword := congrArg (·.synthReg) h
    simpa [hideUnspecified, hv, hvt] using hword.symm

theorem SameSeen.ite {c : Prop} [Decidable c] {x y x' y' : State} (hx : SameSeen x x')
    (hy : SameSeen y y') : SameSeen (if c then x else y) (if c then x' else y') := by
  split <;> assumption

/-- An operation that neither reads nor writes the two elements, nor writes their valid bits, keeps the
agreement. -/
theorem SameSeen.map {s t : State} (h : SameSeen s t) {f : State → State}
    (hf : ∀ count word, f (withValues count word s) = withValues count word (f s))
    (hkept : (f s).prevValid = s.prevValid ∧ (f s).prevCount = s.prevCount ∧
      (f s).synthValid = s.synthValid ∧ (f s).synthReg = s.synthReg) : SameSeen (f s) (f t) := by
  obtain ⟨count, word, rfl, hc, hw⟩ := h.exists_eq
  obtain ⟨hp, hcount, hv, hword⟩ := hkept
  rw [hf]
  exact sameSeen_withValues (by rwa [hp, hcount]) (by rwa [hv, hword])

theorem SameSeen.stepEnabled_eq {s t : State} (h : SameSeen s t) (k : InternalStep) :
    stepEnabled s k = stepEnabled t k := by
  obtain ⟨_, _, rfl, -⟩ := h.exists_eq
  cases k <;> rfl

/-! ## The shared operations -/

/-- A request for a rate by its two tests (R232). -/
theorem requestRate_eq (freq : BitVec 32) (s : State) :
    requestRate freq s =
      if s.rateValid = true ∧ freq = s.currentRate then s
      else if supported s.cfg freq.toNat then switchSeq s.activeSource (some freq) s
      else raise .unsupportedFreq s := by
  obtain ⟨hv, hf, h⟩ | ⟨hn, hs, h⟩ | ⟨hn, hs, h⟩ := requestRate_cases freq s <;> rw [h]
  · rw [if_pos ⟨hv, hf⟩]
  · rw [if_neg hn, if_neg hs]; rfl
  · rw [if_neg hn, if_pos hs, switchSeq_eq_afterSwitch]

section Operations

variable {s t : State} (h : SameSeen s t)
include h

theorem sameSeen_raise (c : Condition) : SameSeen (raise c s) (raise c t) :=
  h.map (f := raise c) (fun _ _ => rfl) ⟨rfl, rfl, rfl, rfl⟩

theorem sameSeen_illegalWord (w : Word) : SameSeen (illegalWord w s) (illegalWord w t) :=
  .ite h (sameSeen_raise h .badCmd)

/-- A switch sequence makes the previous count unspecified and drives a new word or none (R224). -/
theorem sameSeen_switchSeq (src : ClockSource) (r : Option (BitVec 32)) :
    SameSeen (switchSeq src r s) (switchSeq src r t) := by
  obtain ⟨count, word, rfl, -, hw⟩ := h.exists_eq
  cases r with
  | none => exact sameSeen_withValues (s := switchSeq src none s) nofun hw
  | some rate =>
    exact sameSeen_withValues (s := switchSeq src (some rate) s) (count := count) nofun fun _ => rfl

theorem sameSeen_switchSeq_keptRate (src : ClockSource) :
    SameSeen (switchSeq src (keptRate s) s) (switchSeq src (keptRate t) t) := by
  have hrate : keptRate (hideUnspecified s) = keptRate (hideUnspecified t) := congrArg keptRate h
  change keptRate s = keptRate t at hrate
  rw [hrate]
  exact sameSeen_switchSeq h src _

theorem sameSeen_fallBack (cause : Condition) : SameSeen (fallBack cause s) (fallBack cause t) :=
  sameSeen_switchSeq_keptRate (sameSeen_raise (sameSeen_raise h cause) .fallback) .internal

theorem sameSeen_requestRate (freq : BitVec 32) : SameSeen (requestRate freq s) (requestRate freq t) := by
  have hswitch := sameSeen_switchSeq h s.activeSource (some freq)
  have hbad := sameSeen_raise h .unsupportedFreq
  obtain ⟨_, _, rfl, -⟩ := h.exists_eq
  rw [requestRate_eq, requestRate_eq]
  exact .ite h (.ite hswitch hbad)

/-- The previous count is read only where it is valid, and the word is driven anew by a sample (R140). -/
theorem sameSeen_observe (n : Nat) : SameSeen (observe n s) (observe n t) := by
  obtain ⟨count, word, rfl, hc, hw⟩ := h.exists_eq
  cases hp : s.prevValid with
  | false =>
    rw [observe_of_unprimed hp, observe_of_unprimed (s := withValues count word s) hp]
    exact sameSeen_withValues (s := { s with wdog := 0, prevCount := n, prevValid := true }) (fun _ => rfl) hw
  | true =>
    obtain rfl := hc hp
    by_cases hn : n = s.prevCount
    · rw [observe_of_stall hp hn, observe_of_stall (s := withValues s.prevCount word s) hp hn]
      exact sameSeen_withValues (s := { s with wdog := 0, flags := s.flags ||| 0x08#8 }) (fun _ => rfl) hw
    · rw [observe_of_sample hp hn, observe_of_sample (s := withValues s.prevCount word s) hp hn]
      rfl

theorem sameSeen_deliver (r : PinRequest) : SameSeen (deliver r s) (deliver r t) := by
  obtain ⟨_, _, rfl, -⟩ := h.exists_eq
  exact .ite h (h.map (f := fun u => { u with mailbox := some r }) (fun _ _ => rfl) ⟨rfl, rfl, rfl, rfl⟩)

theorem sameSeen_acceptRequest (r : PinRequest) : SameSeen (acceptRequest r s) (acceptRequest r t) := by
  cases r with
  | init => exact h.map (f := acceptRequest .init) (fun _ _ => rfl) ⟨rfl, rfl, rfl, rfl⟩
  | immediate => exact h.map (f := acceptRequest .immediate) (fun _ _ => rfl) ⟨rfl, rfl, rfl, rfl⟩
  | timed off =>
    obtain ⟨_, _, rfl, -⟩ := h.exists_eq
    exact .ite
      (h.map (f := fun u => { u with noteMissed := true, inflight := some 0 }) (fun _ _ => rfl)
        ⟨rfl, rfl, rfl, rfl⟩)
      (h.map (f := fun u => { u with inflight := some (offsetOf off) }) (fun _ _ => rfl)
        ⟨rfl, rfl, rfl, rfl⟩)

theorem sameSeen_takeRequest : SameSeen (takeRequest s) (takeRequest t) := by
  have hmail : s.mailbox = t.mailbox := congrArg (·.mailbox) h
  cases hs : s.mailbox with
  | none => rwa [takeRequest_of_empty hs, takeRequest_of_empty (hmail.symm.trans hs)]
  | some r =>
    rw [takeRequest_of_waiting hs, takeRequest_of_waiting (hmail.symm.trans hs)]
    exact sameSeen_acceptRequest
      (h.map (f := fun u => { u with mailbox := none }) (fun _ _ => rfl) ⟨rfl, rfl, rfl, rfl⟩) r

theorem sameSeen_takeMissed : SameSeen (takeMissed s) (takeMissed t) := by
  obtain ⟨_, _, rfl, -⟩ := h.exists_eq
  exact .ite
    (h.map (f := fun u => { raise .missedDeadline u with noteMissed := false }) (fun _ _ => rfl)
      ⟨rfl, rfl, rfl, rfl⟩) h

theorem sameSeen_takeHardFail : SameSeen (takeHardFail s) (takeHardFail t) := by
  have hquiet := h.map (f := fun u => { u with noteHardFail := false }) (fun _ _ => rfl)
    ⟨rfl, rfl, rfl, rfl⟩
  obtain ⟨_, _, rfl, -⟩ := h.exists_eq
  exact .ite (.ite (sameSeen_raise hquiet .hardFail) (sameSeen_fallBack hquiet .hardFail)) h

end Operations

/-! ## Every instruction -/

theorem sameSeen_whenEnabled {k : InternalStep} {s t x y : State} (h : SameSeen s t) (hxy : SameSeen x y) :
    sameSeen (whenEnabled (stepEnabled s k) k x) (whenEnabled (stepEnabled t k) k y) := by
  rw [h.stepEnabled_eq]
  cases stepEnabled t k
  · exact rfl
  · exact hxy

theorem exec_sameSeen (i : Instr) {s t : State} (h : SameSeen s t) : sameSeen (exec i s) (exec i t) := by
  cases i with
  | selsrc src =>
    have hbad := sameSeen_raise h .badCmd
    have hswitch := sameSeen_switchSeq_keptRate h src
    obtain ⟨_, _, rfl, -⟩ := h.exists_eq
    exact SameSeen.ite hbad (.ite hbad (.ite h hswitch))
  | setrate freq => exact sameSeen_requestRate h freq
  | rateirq freq => exact sameSeen_requestRate h freq
  | refev src kind count =>
    have hobserve := sameSeen_observe h count.toNat
    obtain ⟨_, _, rfl, -⟩ := h.exists_eq
    exact SameSeen.ite hobserve h
  | los src =>
    have hfall := sameSeen_fallBack h .los
    obtain ⟨_, _, rfl, -⟩ := h.exists_eq
    exact SameSeen.ite hfall h
  | status => exact sameSeen_illegalWord h _
  | settings => exact sameSeen_illegalWord h _
  | getstatus =>
    exact h.map (f := fun u => respond (statusAnswer u) u) (fun _ _ => rfl) ⟨rfl, rfl, rfl, rfl⟩
  | synget freq =>
    exact h.map (f := fun u => respond (settingsAnswer u.cfg freq) u) (fun _ _ => rfl)
      ⟨rfl, rfl, rfl, rfl⟩
  | clrflags mask =>
    exact h.map (f := fun u => { u with flags := clearFlags u.flags mask }) (fun _ _ => rfl)
      ⟨rfl, rfl, rfl, rfl⟩
  | audmsg => exact h
  | pininit => exact sameSeen_deliver h .init
  | pintgl => exact sameSeen_deliver h .immediate
  | pintglt off => exact sameSeen_deliver h (.timed off)
  | pinfault => exact h.map (f := pinFaulted) (fun _ _ => rfl) ⟨rfl, rfl, rfl, rfl⟩
  | timeout =>
    have hrate : s.currentRate = t.currentRate := congrArg (·.currentRate) h
    have hflags := sameSeen_raise (sameSeen_raise h .refTimeout) .fallback
    exact sameSeen_whenEnabled (k := .timeout) h (hrate ▸ sameSeen_switchSeq hflags .internal _)
  | note => exact sameSeen_whenEnabled (k := .note) h (sameSeen_takeHardFail (sameSeen_takeMissed h))
  | paccept => exact sameSeen_whenEnabled (k := .paccept) h (sameSeen_takeRequest h)
  | pflip =>
    exact sameSeen_whenEnabled (k := .pflip) h
      (h.map (f := fun u => { u with pin := flipLevel u.pin, inflight := none }) (fun _ _ => rfl)
        ⟨rfl, rfl, rfl, rfl⟩)
  | tick =>
    exact sameSeen_whenEnabled (k := .tick) h
      (h.map (f := fun u => { u with
        wdog := min (u.wdog + 1) u.cfg.refTimeoutTicks
        inflight := u.inflight.map (fun rem => rem - 1)
        now := u.now + 1 }) (fun _ _ => rfl) ⟨rfl, rfl, rfl, rfl⟩)
  | reset =>
    obtain ⟨_, _, rfl, -⟩ := h.exists_eq
    exact (rfl : SameSeen _ _)

/-! ## What is taken -/

@[simp] theorem withValues_schedule (count : Nat) (word : BitVec 32) (s : State) :
    (withValues count word s).schedule = s.schedule := rfl

@[simp] theorem enabledSteps_withValues (count : Nat) (word : BitVec 32) (s : State) :
    enabledSteps (withValues count word s) = enabledSteps s := by
  have hsame : stepEnabled (withValues count word s) = stepEnabled s := by
    funext k
    cases k <;> rfl
  rw [enabledSteps, enabledSteps, hsame]

@[simp] theorem stillOwed_withValues (count : Nat) (word : BitVec 32) (s : State) :
    stillOwed (withValues count word s) = stillOwed s := by
  rw [stillOwed, stillOwed, enabledSteps_withValues]; rfl

@[simp] theorem dueStep_withValues (count : Nat) (word : BitVec 32) (s : State) :
    dueStep (withValues count word s) = dueStep s := by
  rw [dueStep, dueStep, stillOwed_withValues]; rfl

theorem passTurn_withValues (count : Nat) (word : BitVec 32) (s : State) :
    passTurn (withValues count word s) = withValues count word (passTurn s) := by
  simp only [passTurn, roundOpens, stillOwed_withValues, enabledSteps_withValues]
  rfl

theorem takeIdle_withValues (count : Nat) (word : BitVec 32) (s : State) :
    takeIdle (withValues count word s) = (takeIdle s).map (Prod.map id (withValues count word)) := by
  rw [takeIdle, takeIdle, enabledSteps_withValues]
  match enabledSteps s with
  | [] => rfl
  | [_] => rfl
  | _ :: _ :: _ => rfl

theorem takeFree_withValues (count : Nat) (word : BitVec 32) (s : State) :
    takeFree (withValues count word s) = (takeFree s).map (Prod.map id (withValues count word)) := by
  rw [takeFree, takeFree, withValues_schedule, takeIdle_withValues]
  cases s.schedule <;> rfl

/-- The same event is taken, and the other values stay the only difference. -/
theorem take_withValues (count : Nat) (word : BitVec 32) (s : State) :
    take (withValues count word s) = (take s).map (Prod.map id (withValues count word)) := by
  rw [take, take, dueStep_withValues, stillOwed_withValues, passTurn_withValues, takeFree_withValues]
  cases dueStep s <;> rfl

theorem take_sameSeen {s t : State} (h : SameSeen s t) :
    (take s = none ∧ take t = none) ∨
    ∃ e u v, take s = some (e, u) ∧ take t = some (e, v) ∧ SameSeen u v := by
  obtain ⟨count, word, rfl, hc, hw⟩ := h.exists_eq
  rw [take_withValues]
  cases ht : take s with
  | none => exact .inl ⟨rfl, rfl⟩
  | some p =>
    obtain ⟨e, u⟩ := p
    refine .inr ⟨e, u, _, rfl, rfl, ?_⟩
    obtain ⟨_, _, _, _, rfl⟩ := take_frame ht
    exact sameSeen_withValues hc hw

/-- Settles O57: both states take the same event, and run it on states that agree but for unspecified
values. -/
theorem unspecifiedValuesAreNotConsulted : Obligations.UnspecifiedValuesAreNotConsulted := by
  intro s t h
  obtain ⟨hs, ht⟩ | ⟨e, u, v, hs, ht, huv⟩ := take_sameSeen h
  · simp only [step, fetch, hs, ht]
    exact rfl
  cases e with
  | internal k =>
    rw [step_of_take_internal hs, step_of_take_internal ht]
    exact exec_sameSeen k.instr
      (huv.map (f := fun a => { a with owed := a.owed.erase k }) (fun _ _ => rfl) ⟨rfl, rfl, rfl, rfl⟩)
  | word w =>
    have hcfg : u.cfg = v.cfg := congrArg (·.cfg) huv
    simp only [step, fetch, hs, ht, fetchEvent, fetchWord, hcfg]
    cases decode v.cfg.timerMod w with
    | ok i => exact exec_sameSeen i huv
    | error _ => exact sameSeen_illegalWord huv w

end Sys2Proof.Machine
end
